-- ==== Sys2Proof/Word.lean ====
section
/-! DEFINITION. The plain types every other file uses: bytes, 16-bit words, sparse tables. -/

namespace Sys2Proof

/-- One byte of a link. -/
abbrev Byte := BitVec 8

/-- A 16-bit field that the manual treats as bits: identifiers, filter match and mask, status words,
binary angles, analog values, view revisions. -/
abbrev Word16 := BitVec 16

/-- Sparse data by key, in rising key order: the slot map by instant number (R97), the Source Table
and the Hold Bank by source index (R54, R131), a contributor list by source index (R97). -/
abbrev Table (α : Type) := List (Nat × α)

end Sys2Proof
end

