-- ==== Sys2Proof/Syntax.lean ====
section
/-! DEFINITION. The commands: one constructor for each row of spec/opcode_table.json, in its order.
A command is an event the part takes (a pin change, a byte, local time reaching a value, an operation
ending, a request executed); 95_what_each_step_holds lists what comes about inside each. -/

namespace Sys2Proof

/-- The four Ingest Links (00_scope, Block overview). -/
inductive LinkId
  | il0 | il1 | il2 | il3
deriving DecidableEq, Repr

/-- The two Release Links (R147). -/
inductive RelId
  | rl0 | rl1
deriving DecidableEq, Repr

/-- The commands of the block. Each constructor names its row of the opcode table. -/
inductive Instr
  /-- POWER_ON (R172). -/
  | powerOn
  /-- RESETN_ASSERT (R172). -/
  | resetnAssert
  /-- RESET_END (R172). -/
  | resetEnd
  /-- PPS_EDGE (R19). -/
  | ppsEdge
  /-- MISSING_PPS_CHECK (R22). -/
  | missingPpsCheck
  /-- LOCAL_TIME_STOP (R18). -/
  | localTimeStop
  /-- CADENCE_EVENT (R28, R101). -/
  | cadenceEvent
  /-- DEADLINE_EXPIRY (R29, R108) of the slot of one instant number. -/
  | deadlineExpiry (instant : Nat)
  /-- INGEST_BYTE (R33 to R35): one byte on one Ingest Link. -/
  | ingestByte (link : LinkId) (byte : Byte)
  /-- INGEST_FRAME (R36): the last CRC byte of a frame on one Ingest Link. -/
  | ingestFrame (link : LinkId) (byte : Byte)
  /-- PLACEMENT_STEP (R75). -/
  | placementStep
  /-- DESCRIPTION_HANDLING (R70). -/
  | descriptionHandling
  /-- SET_HANDOVER (R144). -/
  | setHandover
  /-- ASSEMBLY_END (R123). -/
  | assemblyEnd
  /-- TRANSMISSION_END (R148) on one Release Link. -/
  | transmissionEnd (link : RelId)
  /-- BUSY_ASSERT (R148) of one Release Link's BUSY pin. -/
  | busyAssert (link : RelId)
  /-- BUSY_DEASSERT (R148). -/
  | busyDeassert (link : RelId)
  /-- INHIBIT_ASSERT (R149). -/
  | inhibitAssert
  /-- INHIBIT_DEASSERT (R149). -/
  | inhibitDeassert
  /-- CL_BYTE (R156): one byte on the Command Link. -/
  | clByte (byte : Byte)
  /-- REQUEST_FRAME (R157): the last CRC byte of a frame on the Command Link. -/
  | requestFrame (byte : Byte)
  /-- CL_TRANSMISSION_END (R164). -/
  | clTransmissionEnd
  /-- UNKNOWN_REQUEST (R160): the head request, of a code outside the catalogue, is executed. -/
  | unknownRequest
  /-- IDENTIFY (R181), code 1: like every request row below, the head request is executed. -/
  | identify
  /-- READ_STATUS (R180), code 2. -/
  | readStatus
  /-- CONFIGURE_GRID (R2), code 3. -/
  | configureGrid
  /-- CONFIGURE_RELEASE (R116), code 4. -/
  | configureRelease
  /-- CONFIGURE_TIME (R26), code 5. -/
  | configureTime
  /-- SET_SECOND (R25), code 6. -/
  | setSecond
  /-- CONFIGURE_INGEST (R50), code 7. -/
  | configureIngest
  /-- READ_UNKNOWN_LOG (R52), code 8. -/
  | readUnknownLog
  /-- DECLARE_SOURCE (R61), code 9. -/
  | declareSource
  /-- AMEND_SOURCE (R62), code 10. -/
  | amendSource
  /-- RETIRE_SOURCE (R66), code 11. -/
  | retireSource
  /-- SUSPEND_SOURCE (R64), code 12. -/
  | suspendSource
  /-- RESUME_SOURCE (R65), code 13. -/
  | resumeSource
  /-- READ_SOURCE (R68), code 14. -/
  | readSource
  /-- STAGE_VIEW (R135), code 15. -/
  | stageView
  /-- CANCEL_VIEW (R139), code 16. -/
  | cancelView
  /-- READ_VIEW (R140), code 17. -/
  | readView
  /-- CONFIGURE_RELEASE_LINK (R152), code 18. -/
  | configureReleaseLink
  /-- READ_RELEASE_LINKS (R153), code 19. -/
  | readReleaseLinks
  /-- START (R169), code 20. -/
  | start
  /-- STOP (R170), code 21. -/
  | stop
  /-- RELEASE_THROUGH (R110), code 22. -/
  | releaseThrough
  /-- READ_WINDOW (R117), code 23. -/
  | readWindow
  /-- RESET_WINDOW (R171), code 24. -/
  | resetWindow
  /-- RESET_DEVICE (R162), code 25. -/
  | resetDevice
  /-- CLEAR_COUNTERS (R182), code 26. -/
  | clearCounters
  /-- CLEAR_FAULTS (R178), code 27. -/
  | clearFaults
  /-- SET_NOTICES (R176), code 28. -/
  | setNotices
deriving DecidableEq, Repr

end Sys2Proof
end

