-- ==== Sys2Proof/Decode.lean ====
section
/-! DEFINITION. The words of the opcode table. spec/opcode_table.json gives no row any bits
(n_rows_with_fixed is 0 in 98_reader.md), so no word spells a command. -/

namespace Sys2Proof

/-- The command a word of the table spells: none, for the table gives no row bits. -/
def decodeTableWord (_nbits _w : Nat) : Option Instr := none

end Sys2Proof
end

