-- ==== Sys2Proof/Config.lean ====
section
/-! DEFINITION. What the part fixes (capacities, R181; the unit of time, 00_scope Terms) and the one
value the manual leaves open, which no proof can see. -/

namespace Sys2Proof.Config

/-- FREE VALUE (log 3). R186 sends the value bytes of an absent value and does not say what they hold;
R25 does not say what its reply carries as E in the last second. `absentByte n k` is byte `k` of
those of the `n`-th reply; it has no body. -/
opaque absentByte : Nat → Nat → Byte

/-- Grains in a second (00_scope, Terms: a grain is 1/6,000,000 of a second). -/
def grainsPerSecond : Nat := 6000000

/-- The greatest second number (R17). -/
def maxSecond : Nat := 4294967295

/-- The value at which every counter saturates (00_scope, Conventions). -/
def counterMax : Nat := 4294967295

/-- Source Table entries (R54, R181). -/
def sourceEntries : Nat := 1024

/-- Slots of the slot map (R97, R181). -/
def slotCapacity : Nat := 256

/-- Sample records of the Sample Store (R100, R181). -/
def sampleRecords : Nat := 65536

/-- SETs of each release queue (R145, R181). -/
def releaseCapacity : Nat := 32

/-- Notices of the notice queue (R174, R181). -/
def noticeCapacity : Nat := 16

/-- Requests of the request queue (R155, R181). -/
def requestCapacity : Nat := 4

/-- Replies of the reply list (R155). -/
def replyCapacity : Nat := 8

/-- Ingest frames of each link's FIFO (R39). -/
def fifoCapacity : Nat := 8

/-- Entries of the Unknown Source Log (R47). -/
def logCapacity : Nat := 16

/-- The greatest passed-over count (R44). -/
def passedOverMax : Nat := 15

end Sys2Proof.Config
end

