-- ==== Sys2Proof/Machine/State.lean ====
section
/-! DEFINITION. Everything the spec gives the part, as plain data, block by block (00_scope, Block
overview), and the part right after a device reset. What one item determines of another is stored
once: P, the window base, the identifier map, the hold record references, the Assembler, dispatcher
and link states and the ALERT level are functions of State, in the files that own them (log 4). -/

namespace Sys2Proof.Machine

/-! ## Why a step can stop -/

/-- Faults. The spec gives the part no event that stops it, so there is none, and no command raises
one (log 1; safe). -/
inductive Fault
deriving DecidableEq, Repr

/-- Refusals of a command. -/
inductive Refusal
  /-- The command has no meaning yet; raised by an arm of `exec` alone. Safe: the model stops. No
  arm of this model raises it. -/
  | notModelled (mnemonic : String)
deriving DecidableEq, Repr

/-! ## Time Reference (R17) -/

/-- The state of the part's time discipline (R17). -/
inductive TimeQuality
  | unset | locked | holdover | freeRun
deriving DecidableEq, Repr

/-- The items of R17, and two marks the text of R18 and R22 implies. -/
structure TimeRef where
  second         : Nat
  fraction       : Nat
  pendingSecond  : Option Nat
  quality        : TimeQuality
  outlierRun     : Nat
  holdoverSeconds : Nat
  boundaryMark   : Bool
  cadenceMark    : Option Nat
  captureWindow  : Nat
  holdoverLimit  : Nat
  /-- The missing-PPS check of the current local second has been taken (R22, R26). -/
  checkTaken     : Bool
  /-- Local time has stopped at its last grain (R18). -/
  stopped        : Bool
deriving DecidableEq, Repr

/-- R17, device reset. -/
def TimeRef.reset : TimeRef :=
  { second := 0, fraction := 0, pendingSecond := none, quality := .unset, outlierRun := 0,
    holdoverSeconds := 0, boundaryMark := false, cadenceMark := none, captureWindow := 600,
    holdoverLimit := 60, checkTaken := false, stopped := false }

/-! ## The grid configuration (R1) -/

/-- F0, the alignment rate and the future limit (R1); P is `period`. -/
structure Grid where
  f0 : Nat
  rate : Nat
  futureLimit : Nat
deriving DecidableEq, Repr

/-- R1, device reset. -/
def Grid.reset : Grid := { f0 := 50, rate := 50, futureLimit := 2 }

/-! ## Ingest Links, arbiter, dispatcher, Unknown Source Log (R32) -/

/-- One item for each Ingest Link. -/
structure PerLink (α : Type) where
  il0 : α
  il1 : α
  il2 : α
  il3 : α
deriving DecidableEq, Repr

/-- The receiver of a byte-serial link, with its partial frame (R32, R33, R155). In `frame` the
bytes of kind, body and CRC received so far stand in arrival order. -/
inductive Receiver
  | off
  | hunt
  | marker
  | length (first : Option Byte)
  | frame (announced : Nat) (got : List Byte)
deriving DecidableEq, Repr

/-- The kinds of FIELD frame (R37). -/
inductive FieldKind
  | measurement | description
deriving DecidableEq, Repr

/-- An ingest frame (R32). -/
structure IngestFrame where
  link : LinkId
  kind : FieldKind
  id : Word16
  body : List Byte
  stampSecond : Nat
  stampFraction : Nat
deriving DecidableEq, Repr

/-- The link counters (section Link counters of 03). -/
structure LinkCounters where
  huntBytes : Nat := 0
  lengthError : Nat := 0
  crcError : Nat := 0
  kindError : Nat := 0
  filtered : Nat := 0
  enqueued : Nat := 0
  overflow : Nat := 0
  abandoned : Nat := 0
  flushed : Nat := 0
  granted : Nat := 0
  unknownFrames : Nat := 0
deriving DecidableEq, Repr

/-- The items of one Ingest Link (R32). -/
structure IngestLink where
  on : Bool
  filterMatch : Word16
  filterMask : Word16
  receiver : Receiver
  fifo : List IngestFrame
  passedOver : Nat
  counters : LinkCounters
deriving DecidableEq, Repr

/-- R32, device reset. -/
def IngestLink.reset : IngestLink :=
  { on := false, filterMatch := 0, filterMask := 0, receiver := .off, fifo := [], passedOver := 0,
    counters := {} }

/-- The arbiter's mode (R42, R43). -/
inductive ArbiterMode
  | priority | roundRobin
deriving DecidableEq, Repr

/-- An entry of the Unknown Source Log (R47). -/
structure LogEntry where
  id : Word16
  link : LinkId
  firstSeen : Nat
  count : Nat
deriving DecidableEq, Repr

/-- The frame in dispatch with the source index its lookup found (R45, R46). -/
structure Dispatch where
  frame : IngestFrame
  source : Nat
deriving DecidableEq, Repr

/-- The shared items of R32. The dispatcher is BUSY exactly when a frame is in dispatch. -/
structure Ingest where
  mode : ArbiterMode
  fairness : Nat
  lastGranted : LinkId
  dispatch : Option Dispatch
  log : List LogEntry
deriving DecidableEq, Repr

/-- R32, device reset. -/
def Ingest.reset : Ingest :=
  { mode := .priority, fairness := 4, lastGranted := .il3, dispatch := none, log := [] }

/-! ## The Source Table (R54, R55, R72) -/

/-- Entry states (R58). -/
inductive EntryState
  | unused | declared | active | stalled | suspended | retiring
deriving DecidableEq, Repr

/-- Byte order of a source's payload or of a SET body (R54, R133). -/
inductive ByteOrder
  | big | little
deriving DecidableEq, Repr

/-- Hold policy (R54). -/
inductive HoldPolicy
  | absent | hold
deriving DecidableEq, Repr

/-- The shape fields of an entry (R54, R71). -/
structure SourceShape where
  rate : Nat
  timeBase : Nat
  phasors : Nat
  analogs : Nat
  order : ByteOrder
deriving DecidableEq, Repr

/-- The eight amendable fields of an entry, with the defaults of R54. -/
structure SourceOptions where
  required : Bool := false
  holdPolicy : HoldPolicy := .absent
  holdLimit : Nat := 5
  tolerance : Nat := 6000
  reReference : Bool := true
  qualityLimit : Nat := 15
  stallThreshold : Nat := 10
  remoteAllowed : Bool := false
deriving DecidableEq, Repr

/-- The receipt history (R57): the newest placed instant, and the set of placed instants of its span,
bit `k` of `marks` standing for the newest less `k`. -/
structure Receipt where
  newest : Option Nat
  marks : BitVec 64
deriving DecidableEq, Repr

/-- A history with nothing placed (R55). -/
def Receipt.clear : Receipt := { newest := none, marks := 0 }

/-- The counters of an entry, in the order of R72. -/
structure SourceCounters where
  accepted : Nat := 0
  suspendedDrops : Nat := 0
  wrongLink : Nat := 0
  notRunning : Nat := 0
  badShape : Nat := 0
  badTime : Nat := 0
  decimated : Nat := 0
  misaligned : Nat := 0
  duplicate : Nat := 0
  late : Nat := 0
  early : Nat := 0
  noSlot : Nat := 0
  storeFull : Nat := 0
  held : Nat := 0
  absent : Nat := 0
  stalls : Nat := 0
  remoteRefused : Nat := 0
  badDescription : Nat := 0
  descriptions : Nat := 0
deriving DecidableEq, Repr

/-- A Source Table entry (R54, R55, R72). Its hold record reference is present exactly when the Hold
Bank holds a record of its index (R131). -/
structure Entry where
  state : EntryState
  id : Word16
  links : PerLink Bool
  shape : SourceShape
  options : SourceOptions
  latency : Nat
  receipt : Receipt
  missCount : Nat
  heldCount : Nat
  counters : SourceCounters
deriving DecidableEq, Repr

/-- An entry after device reset (R73); the configuration of an UNUSED entry shows nowhere (log 5). -/
def Entry.unused : Entry :=
  { state := .unused, id := 0, links := ⟨false, false, false, false⟩,
    shape := { rate := 1, timeBase := 1, phasors := 1, analogs := 0, order := .big }, options := {},
    latency := 0, receipt := .clear, missCount := 0, heldCount := 0, counters := {} }

/-! ## Sample records (R89) -/

/-- A phasor of a record: magnitude as received, angle after R9. -/
structure Phasor where
  magnitude : BitVec 24
  angle : Word16
deriving DecidableEq, Repr

/-- A sample record (R89), its four flags last (R90). -/
structure SampleRecord where
  source : Nat
  instant : Nat
  offset : Int
  quality : Nat
  status : Word16
  frequency : Word16
  rocof : Word16
  phasors : List Phasor
  analogs : List Word16
  invalid : Bool
  poorTime : Bool
  reReferenced : Bool
  unReferenced : Bool
deriving DecidableEq, Repr

/-! ## The Alignment Window (R97) and its configuration (R116) -/

/-- Slot states (R98). -/
inductive SlotState
  | opened | ready | closed | assembling
deriving DecidableEq, Repr

/-- What opened a slot (R97). -/
inductive Opener
  | arrival | cadence
deriving DecidableEq, Repr

/-- Close reasons (R97), in the code order of R187. -/
inductive CloseReason
  | complete | deadline | demand | pressure | overrun | stop
deriving DecidableEq, Repr

/-- A slot record (R97); its instant number is its key in the slot map. A contributor list is a table
from source index to the attached sample record. -/
structure Slot where
  state : SlotState
  opener : Opener
  deadline : Nat
  contributors : Table SampleRecord
  closeReason : Option CloseReason
  overdue : Bool
deriving DecidableEq, Repr

/-- Release modes (R116). -/
inductive ReleaseMode
  | early | deadline | demand
deriving DecidableEq, Repr

/-- Wait modes (R13, R116). -/
inductive WaitMode
  | fixed | adaptive
deriving DecidableEq, Repr

/-- The release configuration (R116) with its device-reset values. -/
structure ReleaseConfig where
  mode : ReleaseMode := .early
  wait : WaitMode := .fixed
  fixedCode : Nat := 3
  capCode : Nat := 5
  minWait : Nat := 0
  margin : Nat := 120000
  lowWater : Nat := 4096
deriving DecidableEq, Repr

/-- The window counters, in the order of R118. -/
structure WindowCounters where
  openedByCadence : Nat := 0
  openedByArrival : Nat := 0
  closedComplete : Nat := 0
  closedDeadline : Nat := 0
  closedDemand : Nat := 0
  closedPressure : Nat := 0
  closedOverrun : Nat := 0
  closedStop : Nat := 0
  skippedInstants : Nat := 0
  overdueMarks : Nat := 0
  noSlot : Nat := 0
deriving DecidableEq, Repr

/-- The window (R97, R99, R100, R113). The free list is held as its size: which record is taken is not
observable (R100, log 6). The window base is the oldest key of `slots`. -/
structure Window where
  slots : Table Slot
  horizon : Option Nat
  freeRecords : Nat
  assemblyQueue : List Nat
  config : ReleaseConfig
  counters : WindowCounters
deriving DecidableEq, Repr

/-- R97, device reset. -/
def Window.reset : Window :=
  { slots := [], horizon := none, freeRecords := Config.sampleRecords, assemblyQueue := [],
    config := {}, counters := {} }

/-! ## The Assembler (R120) and the Release Views (R132, R133) -/

/-- The release views V0 to V7. -/
inductive ViewId
  | v0 | v1 | v2 | v3 | v4 | v5 | v6 | v7
deriving DecidableEq, Repr

/-- One item for each release view. -/
structure PerView (α : Type) where
  v0 : α
  v1 : α
  v2 : α
  v3 : α
  v4 : α
  v5 : α
  v6 : α
  v7 : α
deriving DecidableEq, Repr

/-- Dispositions (R125), each with the source record it carries: for PRESENT the sample record the
contributor list refers to, for HELD the copy of the hold record. -/
inductive Disposition
  | present (record : SampleRecord)
  | held (record : SampleRecord)
  | absent
  | notExpected
deriving DecidableEq, Repr

/-- A disposition record (R125). -/
structure DispositionRecord where
  source : Nat
  id : Word16
  disposition : Disposition
deriving DecidableEq, Repr

/-- The Assembler (R120). It is ASSEMBLING exactly when a slot is in assembly; `nextView` is the view
whose SET is being built, `none` for done. The Hold Bank holds its non-empty records (R131). -/
structure Assembler where
  current : Option Nat
  dispositions : List DispositionRecord
  nextView : Option ViewId
  holdBank : Table SampleRecord
deriving DecidableEq, Repr

/-- R120, device reset. -/
def Assembler.reset : Assembler :=
  { current := none, dispositions := [], nextView := none, holdBank := [] }

/-- Where a view's SETs go (R133); also the three release queues (R145). -/
inductive Destination
  | rl0 | rl1 | cl
deriving DecidableEq, Repr

/-- Angle forms (R15). -/
inductive AngleForm
  | bin16 | cdeg
deriving DecidableEq, Repr

/-- Magnitude forms (R16); the shift stands in the descriptor. -/
inductive MagnitudeForm
  | m24 | m16
deriving DecidableEq, Repr

/-- An entry of a view's source list (R133): bit `k` of a selection marks phasor or analog `k + 1`. -/
structure ListEntry where
  source : Nat
  phasors : BitVec 16
  analogs : BitVec 8
deriving DecidableEq, Repr

/-- A view descriptor (R133). -/
structure Descriptor where
  tag : Nat
  divisor : Nat
  destination : Destination
  completeOnly : Bool
  angleForm : AngleForm
  magnitudeForm : MagnitudeForm
  shift : Nat
  order : ByteOrder
  includeFrequency : Bool
  sources : List ListEntry
deriving DecidableEq, Repr

/-- A staged descriptor (R133): `content` is `none` when the retire mark is on, for then it holds no
other descriptor fields. -/
structure Staged where
  effectiveSecond : Nat
  content : Option Descriptor
deriving DecidableEq, Repr

/-- A view record (R132). The view is ACTIVE exactly when it has a current descriptor. -/
structure View where
  current : Option Descriptor
  staged : Option Staged
  revision : Word16
  setsBuilt : Nat
  skippedIncomplete : Nat
deriving DecidableEq, Repr

/-- R132, device reset. -/
def View.reset : View :=
  { current := none, staged := none, revision := 0, setsBuilt := 0, skippedIncomplete := 0 }

/-! ## Release queues and Release Links (R145, R147) -/

/-- A SET: the header of R142 and the bytes of its entries (R143, R187). -/
structure OutSet where
  tag : Nat
  revision : Word16
  second : Nat
  index : Nat
  reason : CloseReason
  quality : TimeQuality
  entryCount : Nat
  entries : List Byte
deriving DecidableEq, Repr

/-- The counters of a release queue, in the order of R145 (the Command Release Queue does not use
`disabledDrops`). -/
structure QueueCounters where
  queued : Nat := 0
  disabledDrops : Nat := 0
  dropped : Nat := 0
  sent : Nat := 0
  cut : Nat := 0
  inhibitedDrops : Nat := 0
  flushed : Nat := 0
deriving DecidableEq, Repr

/-- A release queue (R145); `sending` says that its head SET is in transmission. -/
structure ReleaseQueue where
  sets : List OutSet
  sending : Bool
  counters : QueueCounters
deriving DecidableEq, Repr

/-- An empty release queue (R154). -/
def ReleaseQueue.reset : ReleaseQueue := { sets := [], sending := false, counters := {} }

/-- The release side: the two switches (ENABLED is `true`) and the three queues. -/
structure Release where
  enabled0 : Bool
  enabled1 : Bool
  queue0 : ReleaseQueue
  queue1 : ReleaseQueue
  commandQueue : ReleaseQueue
deriving DecidableEq, Repr

/-- R154, device reset. -/
def Release.reset : Release :=
  { enabled0 := false, enabled1 := false, queue0 := .reset, queue1 := .reset,
    commandQueue := .reset }

/-! ## Reporting (R168) -/

/-- Operating states (R168). -/
inductive OpState
  | idle | running | draining
deriving DecidableEq, Repr

/-- Notice classes (R173), in the class order of R186. -/
inductive NoticeClass
  | time | source | unknown | view | congestion | overdue
deriving DecidableEq, Repr

/-- A notice's subject (R173). -/
inductive Subject
  | none
  | source (index : Nat)
  | view (id : ViewId)
  | ingest (link : LinkId)
  | queue (destination : Destination)
deriving DecidableEq, Repr

/-- A notice (R173). -/
structure Notice where
  cls : NoticeClass
  priority : Nat
  subject : Subject
  detail : Nat
  second : Nat
deriving DecidableEq, Repr

/-- Mask and priority of a class (R168). -/
structure ClassSetting where
  masked : Bool
  priority : Nat
deriving DecidableEq, Repr

/-- One item for each notice class. -/
structure PerClass (α : Type) where
  time : α
  source : α
  unknown : α
  view : α
  congestion : α
  overdue : α
deriving DecidableEq, Repr

/-- The fault flags (R177), in the order of R186. -/
inductive FaultFlag
  | storeExhausted | pressure | overrun | releaseDrop | ingestOverflow | noticeLoss
  | commandOverflow | timeFreeRun
deriving DecidableEq, Repr

/-- One mark for each fault flag: the flags themselves, or their ALERT enables. -/
structure FlagSet where
  storeExhausted : Bool
  pressure : Bool
  overrun : Bool
  releaseDrop : Bool
  ingestOverflow : Bool
  noticeLoss : Bool
  commandOverflow : Bool
  timeFreeRun : Bool
deriving DecidableEq, Repr

/-- Every mark at one value. -/
def FlagSet.all (b : Bool) : FlagSet := ⟨b, b, b, b, b, b, b, b⟩

/-- The items of R168. -/
structure Reporting where
  opState : OpState
  startMark : Bool
  notices : List Notice
  classes : PerClass ClassSetting
  faults : FlagSet
  alertEnables : FlagSet
  lostNotices : Nat
deriving DecidableEq, Repr

/-- R168 and the default priorities of R173, device reset. -/
def Reporting.reset : Reporting :=
  { opState := .idle, startMark := false, notices := [],
    classes := ⟨⟨false, 3⟩, ⟨false, 1⟩, ⟨false, 0⟩, ⟨false, 1⟩, ⟨false, 2⟩, ⟨false, 2⟩⟩,
    faults := .all false, alertEnables := .all true, lostNotices := 0 }

/-! ## The Command Link (R155) -/

/-- A taken REQUEST (R158): code, host tag, and the bytes of its fields. -/
structure Request where
  code : Byte
  tag : Byte
  fields : List Byte
deriving DecidableEq, Repr

/-- Reply statuses (R158), in the code order of R186. -/
inductive Status
  | ok | busy | unknownRequest | badLength | wrongState | badField | noTime | tableFull | notFound
  | exists | inUse | timeConflict
deriving DecidableEq, Repr

/-- A REPLY (R158, R186): the bytes of its result fields stand for OK alone. -/
structure Reply where
  code : Byte
  tag : Byte
  status : Status
  result : List Byte
deriving DecidableEq, Repr

/-- Processor states (R159), and one of the model's own that stands only inside the execution of a
request and is left behind by no command: `executing` (log 9). -/
inductive Processor
  | free | awaitingRoom | awaitingDrain | awaitingReset
  /-- A request is in execution (the model's own; log 9). -/
  | executing
deriving DecidableEq, Repr

/-- A REPLY or NOTICE in transmission on the Command Link; a SET in transmission there is the head of
the Command Release Queue while that queue is sending (R164). -/
inductive LineFrame
  | reply (reply : Reply)
  | notice (notice : Notice)
deriving DecidableEq, Repr

/-- The Command Link counters, in the order of R166. -/
structure CommandCounters where
  huntBytes : Nat := 0
  lengthError : Nat := 0
  crcError : Nat := 0
  kindError : Nat := 0
  requestsTaken : Nat := 0
  busyReplies : Nat := 0
  unanswered : Nat := 0
  repliesSent : Nat := 0
  busySent : Nat := 0
  noticesSent : Nat := 0
deriving DecidableEq, Repr

/-- The items of R155. -/
structure CommandLink where
  receiver : Receiver
  requests : List Request
  processor : Processor
  replies : List Reply
  line : Option LineFrame
  counters : CommandCounters
deriving DecidableEq, Repr

/-- R155, device reset. -/
def CommandLink.reset : CommandLink :=
  { receiver := .hunt, requests := [], processor := .free, replies := [], line := none,
    counters := {} }

/-! ## Pins (R188) and the whole part -/

/-- The pins with a level (R188), `true` for asserted, and the two causes for which a device reset
lasts (R172): RESETn low, and power not yet stable. -/
structure Pins where
  resetn : Bool
  powerUnstable : Bool
  inhibit : Bool
  busy0 : Bool
  busy1 : Bool
deriving DecidableEq, Repr

/-- Levels outside the part, with no reset in force and nothing asserted (log 2). -/
def Pins.reset : Pins :=
  { resetn := false, powerUnstable := false, inhibit := false, busy0 := false, busy1 := false }

/-- The part, block by block; then the count of replies whose absent bytes have been drawn (the
model's own, log 3) and the commands that wait, first in first out (log 7). -/
structure State where
  time : TimeRef
  grid : Grid
  links : PerLink IngestLink
  ingest : Ingest
  sources : Table Entry
  window : Window
  assembler : Assembler
  views : PerView View
  release : Release
  command : CommandLink
  reporting : Reporting
  pins : Pins
  freeCount : Nat
  pending : List Instr
deriving DecidableEq, Repr

/-- The part right after a device reset has ended (R31, R53, R73, R119, R120, R132, R154, R163, R172),
with no pin asserted and no command waiting. -/
def State.reset : State :=
  { time := .reset
    grid := .reset
    links := ⟨.reset, .reset, .reset, .reset⟩
    ingest := .reset
    sources := []
    window := .reset
    assembler := .reset
    views := ⟨.reset, .reset, .reset, .reset, .reset, .reset, .reset, .reset⟩
    release := .reset
    command := .reset
    reporting := .reset
    pins := .reset
    freeCount := 0
    pending := [] }

end Sys2Proof.Machine
end

