-- ==== Sys2Proof/Machine/Ops.lean ====
section
/-! DEFINITION. The named operations every family uses: tables by key, saturating counters, one item
per link or view, and the reading and writing of State's parts. -/

namespace Sys2Proof

/-- A link's number. -/
def LinkId.index : LinkId → Nat
  | .il0 => 0 | .il1 => 1 | .il2 => 2 | .il3 => 3

/-- The links, lowest number first. -/
def LinkId.all : List LinkId := [.il0, .il1, .il2, .il3]

/-- The links in cyclic order from the one after the given link (R43). -/
def LinkId.cycleAfter : LinkId → List LinkId
  | .il0 => [.il1, .il2, .il3, .il0]
  | .il1 => [.il2, .il3, .il0, .il1]
  | .il2 => [.il3, .il0, .il1, .il2]
  | .il3 => [.il0, .il1, .il2, .il3]

/-- The destination a Release Link serves. -/
def RelId.destination : RelId → Machine.Destination
  | .rl0 => .rl0 | .rl1 => .rl1

namespace Machine

/-! ## Tables by key -/

/-- The item at a key. -/
def tableFind {α : Type} (k : Nat) : Table α → Option α
  | [] => none
  | (j, v) :: t => if j = k then some v else tableFind k t

/-- The table without a key. -/
def tableErase {α : Type} (k : Nat) : Table α → Table α
  | [] => []
  | (j, v) :: t => if j = k then tableErase k t else (j, v) :: tableErase k t

/-- Put an item ahead of the first greater key. -/
def tablePlace {α : Type} (k : Nat) (v : α) : Table α → Table α
  | [] => [(k, v)]
  | (j, w) :: t => if k < j then (k, v) :: (j, w) :: t else (j, w) :: tablePlace k v t

/-- The table with an item at a key, in key order. -/
def tableInsert {α : Type} (k : Nat) (v : α) (t : Table α) : Table α :=
  tablePlace k v (tableErase k t)

/-- The table with the item at a key changed, if there is one. -/
def tableModify {α : Type} (k : Nat) (f : α → α) (t : Table α) : Table α :=
  match tableFind k t with
  | some v => tableInsert k (f v) t
  | none => t

/-- The least key: the window base, of the slot map (R99). -/
def tableFirst {α : Type} (t : Table α) : Option Nat := t.head?.map (·.1)

/-- The greatest key. -/
def tableLast {α : Type} (t : Table α) : Option Nat := t.getLast?.map (·.1)

/-! ## Counters -/

/-- A counter increased by 1, saturating (00_scope, Counters). -/
def bump (n : Nat) : Nat := min (n + 1) Config.counterMax

/-- A counter increased by `k`, saturating: `k` events that each increase it by 1. -/
def bumpBy (k n : Nat) : Nat := min (n + k) Config.counterMax

/-! ## One item per Ingest Link -/

def PerLink.get {α : Type} (p : PerLink α) : LinkId → α
  | .il0 => p.il0 | .il1 => p.il1 | .il2 => p.il2 | .il3 => p.il3

def PerLink.set {α : Type} (p : PerLink α) (l : LinkId) (v : α) : PerLink α :=
  match l with
  | .il0 => { p with il0 := v }
  | .il1 => { p with il1 := v }
  | .il2 => { p with il2 := v }
  | .il3 => { p with il3 := v }

def PerLink.map {α β : Type} (f : α → β) (p : PerLink α) : PerLink β :=
  ⟨f p.il0, f p.il1, f p.il2, f p.il3⟩

/-! ## One item per view -/

def ViewId.index : ViewId → Nat
  | .v0 => 0 | .v1 => 1 | .v2 => 2 | .v3 => 3 | .v4 => 4 | .v5 => 5 | .v6 => 6 | .v7 => 7

/-- The views in index order. -/
def ViewId.all : List ViewId := [.v0, .v1, .v2, .v3, .v4, .v5, .v6, .v7]

/-- The view of an index, 0 to 7 (R134). -/
def ViewId.ofIndex? (n : Nat) : Option ViewId := ViewId.all[n]?

/-- The views after a view, in index order. -/
def ViewId.after (v : ViewId) : List ViewId := ViewId.all.drop (v.index + 1)

def PerView.get {α : Type} (p : PerView α) : ViewId → α
  | .v0 => p.v0 | .v1 => p.v1 | .v2 => p.v2 | .v3 => p.v3
  | .v4 => p.v4 | .v5 => p.v5 | .v6 => p.v6 | .v7 => p.v7

def PerView.set {α : Type} (p : PerView α) (i : ViewId) (v : α) : PerView α :=
  match i with
  | .v0 => { p with v0 := v }
  | .v1 => { p with v1 := v }
  | .v2 => { p with v2 := v }
  | .v3 => { p with v3 := v }
  | .v4 => { p with v4 := v }
  | .v5 => { p with v5 := v }
  | .v6 => { p with v6 := v }
  | .v7 => { p with v7 := v }

def PerView.map {α β : Type} (f : α → β) (p : PerView α) : PerView β :=
  ⟨f p.v0, f p.v1, f p.v2, f p.v3, f p.v4, f p.v5, f p.v6, f p.v7⟩

/-! ## One item per notice class -/

def PerClass.get {α : Type} (p : PerClass α) : NoticeClass → α
  | .time => p.time | .source => p.source | .unknown => p.unknown
  | .view => p.view | .congestion => p.congestion | .overdue => p.overdue

/-! ## Reading and writing State -/

/-- A power-on or RESETn device reset lasts (R172). -/
def State.inReset (s : State) : Bool := s.pins.resetn || s.pins.powerUnstable

/-- An event that acts only on a part that is out of reset (R172: while a reset lasts, every block
holds its device-reset values and bytes on every link are ignored). -/
def outOfReset (f : State → State) (s : State) : State :=
  if s.inReset then s else f s

/-- Every meaning of this model answers a next state (log 1). -/
def answer (s : State) : Host.Outcome State Fault Refusal := .next s

/-- The Source Table entry of an index (R54): UNUSED, as after device reset, where none is listed. -/
def State.entry (s : State) (i : Nat) : Entry := (tableFind i s.sources).getD .unused

/-- Write an entry; one that is as after device reset is not listed, so equal tables are equal data. -/
def State.setEntry (s : State) (i : Nat) (e : Entry) : State :=
  { s with sources :=
      if e = Entry.unused then tableErase i s.sources else tableInsert i e s.sources }

def State.modifyEntry (s : State) (i : Nat) (f : Entry → Entry) : State :=
  s.setEntry i (f (s.entry i))

/-- Count in an entry (R72). -/
def State.countSource (s : State) (i : Nat) (f : SourceCounters → SourceCounters) : State :=
  s.modifyEntry i fun e => { e with counters := f e.counters }

def State.link (s : State) (l : LinkId) : IngestLink := s.links.get l

def State.modifyLink (s : State) (l : LinkId) (f : IngestLink → IngestLink) : State :=
  { s with links := s.links.set l (f (s.link l)) }

/-- Count on an Ingest Link. -/
def State.countLink (s : State) (l : LinkId) (f : LinkCounters → LinkCounters) : State :=
  s.modifyLink l fun k => { k with counters := f k.counters }

def State.view (s : State) (v : ViewId) : View := s.views.get v

def State.modifyView (s : State) (v : ViewId) (f : View → View) : State :=
  { s with views := s.views.set v (f (s.view v)) }

def State.slot? (s : State) (n : Nat) : Option Slot := tableFind n s.window.slots

/-- The hold record of an index, if its reference is present (R55, R131). -/
def State.hold? (s : State) (i : Nat) : Option SampleRecord := tableFind i s.assembler.holdBank

/-- Empty the Hold Bank record of an index (R131). -/
def State.emptyHold (s : State) (i : Nat) : State :=
  { s with assembler := { s.assembler with holdBank := tableErase i s.assembler.holdBank } }

/-- Count in the window (R118). -/
def State.countWindow (s : State) (f : WindowCounters → WindowCounters) : State :=
  { s with window := { s.window with counters := f s.window.counters } }

/-- Count on the Command Link (R166). -/
def State.countCommand (s : State) (f : CommandCounters → CommandCounters) : State :=
  { s with command := { s.command with counters := f s.command.counters } }

/-- The window base (R99): the instant of the oldest slot. -/
def State.windowBase (s : State) : Option Nat := tableFirst s.window.slots

/-- The release queue of a destination (R145). -/
def Release.queue (r : Release) : Destination → ReleaseQueue
  | .rl0 => r.queue0 | .rl1 => r.queue1 | .cl => r.commandQueue

def Release.setQueue (r : Release) (d : Destination) (q : ReleaseQueue) : Release :=
  match d with
  | .rl0 => { r with queue0 := q }
  | .rl1 => { r with queue1 := q }
  | .cl => { r with commandQueue := q }

def State.modifyQueue (s : State) (d : Destination) (f : ReleaseQueue → ReleaseQueue) : State :=
  { s with release := s.release.setQueue d (f (s.release.queue d)) }

/-- The switch of a Release Link (R147). -/
def State.enabled (s : State) : RelId → Bool
  | .rl0 => s.release.enabled0 | .rl1 => s.release.enabled1

def State.setEnabled (s : State) (l : RelId) (b : Bool) : State :=
  match l with
  | .rl0 => { s with release := { s.release with enabled0 := b } }
  | .rl1 => { s with release := { s.release with enabled1 := b } }

/-- The level of a Release Link's BUSY pin (R188). -/
def State.busy (s : State) : RelId → Bool
  | .rl0 => s.pins.busy0 | .rl1 => s.pins.busy1

def State.setBusy (s : State) (l : RelId) (b : Bool) : State :=
  match l with
  | .rl0 => { s with pins := { s.pins with busy0 := b } }
  | .rl1 => { s with pins := { s.pins with busy1 := b } }

end Machine

end Sys2Proof
end

