-- ==== Sys2Proof/Machine/Arith.lean ====
section
/-! DEFINITION. The grid of instants and every computation on it (R1 to R16). All arithmetic is exact,
on Nat and Int (R3: no computation overflows). -/

namespace Sys2Proof.Machine

open Config (grainsPerSecond maxSecond)

/-! ## The grid -/

/-- The rate family of a nominal frequency (00_scope, Rate family). -/
def rateFamily (f0 : Nat) : List Nat :=
  if f0 = 50 then [1, 5, 10, 25, 50, 100]
  else if f0 = 60 then [1, 5, 10, 12, 15, 20, 30, 60, 120]
  else []

/-- The period of a rate, in grains: P of the alignment rate, Ps of a source rate (R1, R7). -/
def periodOf (rate : Nat) : Nat := grainsPerSecond / rate

/-- P (R1). -/
def Grid.period (g : Grid) : Nat := periodOf g.rate

/-- Local time as one count of grains (R18). -/
def TimeRef.grains (t : TimeRef) : Nat := t.second * grainsPerSecond + t.fraction

/-- The current local instant (R3, R30). -/
def State.currentInstant (s : State) : Nat := s.time.grains / s.grid.period

/-- The second of an instant number (R3). -/
def instantSecond (rate n : Nat) : Nat := n / rate

/-- The index of an instant number (R3). -/
def instantIndex (rate n : Nat) : Nat := n % rate

/-- The least and greatest local times in grains: local time stops at the last grain (R18). -/
def lastGrain : Nat := maxSecond * grainsPerSecond + (grainsPerSecond - 1)

/-! ## From timestamp to instant -/

/-- R4: a timestamp in grains as second and grain fraction, or none for BAD_TIME. -/
def toGrains (timeBase s f : Nat) : Option (Nat × Nat) :=
  if timeBase ≤ f then none
  else
    let g := (f * grainsPerSecond + timeBase / 2) / timeBase
    if g = grainsPerSecond then
      if s + 1 ≤ maxSecond then some (s + 1, 0) else none
    else some (s, g)

/-- R5: the nearest instant number and the offset from it, or none for BAD_TIME. -/
def nearestInstant (rate s g : Nat) : Option (Nat × Int) :=
  let p := periodOf rate
  let k := (g + p / 2) / p
  if s = maxSecond ∧ k = rate then none
  else some (s * rate + k, (g : Int) - (k : Int) * p)

/-- R7: the distance of a grain fraction from a source's own grid (log 22). -/
def ownGridOffset (sourceRate g : Nat) : Int :=
  let p := periodOf sourceRate
  (g : Int) - (((g + p / 2) / p : Nat) : Int) * p

/-- R8: instant `n` is expected for a source of the given rate. -/
def expectedAt (rate sourceRate n : Nat) : Bool :=
  instantIndex rate n * sourceRate % rate = 0

/-! ## Phase re-referencing -/

/-- R10, steps 1 to 3: the rotation for a frequency deviation and an offset. -/
def rotation (deviation offset : Int) : Int :=
  let n := deviation * offset * 65536
  let q : Int := ((n.natAbs + 3000000000) / 6000000000 : Nat)
  if 0 ≤ n then -q else q

/-- R10, step 4. -/
def rotate (angle : Word16) (turn : Int) : Word16 :=
  BitVec.ofInt 16 ((angle.toNat : Int) + turn)

/-! ## Latency and wait -/

/-- The greatest latency, 10 s (R11). -/
def latencyMax : Nat := 60000000

/-- R11: the measured latency, both times in grains. -/
def measuredLatency (arrival sample : Nat) : Nat := min (arrival - sample) latencyMax

/-- R12: attack or decay of a latency estimate. -/
def nextLatency (estimate measured : Nat) : Nat :=
  if estimate ≤ measured then measured else estimate - (estimate - measured + 15) / 16

/-- R14: the grain value of a wait code. -/
def waitGrains : Nat → Nat
  | 0 => 300000
  | 1 => 600000
  | 2 => 1200000
  | 3 => 3000000
  | 4 => 6000000
  | 5 => 12000000
  | 6 => 30000000
  | _ => 60000000

/-- R14: both waits are within 200 slot periods of an alignment rate. -/
def waitsAllowed (fixedCode capCode rate : Nat) : Bool :=
  waitGrains fixedCode ≤ 200 * periodOf rate && waitGrains capCode ≤ 200 * periodOf rate

/-- An entry counts in Lmax and in completion (R58): ACTIVE and required. -/
def Entry.awaited (e : Entry) : Bool := e.state = .active && e.options.required

/-- R13: the largest latency estimate of the ACTIVE required entries, 0 if there is none. -/
def lmax : Table Entry → Nat
  | [] => 0
  | (_, e) :: t => if e.awaited then max e.latency (lmax t) else lmax t

/-- R13: the wait of a slot that opens now. -/
def waitNow (c : ReleaseConfig) (largest : Nat) : Nat :=
  match c.wait with
  | .fixed => waitGrains c.fixedCode
  | .adaptive => min (max (largest + c.margin) c.minWait) (waitGrains c.capCode)

/-- R13, R103: the deadline of a slot for instant `n` that opens now. -/
def deadlineNow (s : State) (n : Nat) : Nat :=
  n * s.grid.period + waitNow s.window.config (lmax s.sources)

/-! ## Output conversions -/

/-- R15, CDEG. -/
def centidegrees (angle : Word16) : Nat := (angle.toNat * 36000 + 32768) / 65536 % 36000

/-- R15. -/
def outAngle (f : AngleForm) (angle : Word16) : Nat :=
  match f with
  | .bin16 => angle.toNat
  | .cdeg => centidegrees angle

/-- R16, M16 with a shift. -/
def shiftedMagnitude (shift magnitude : Nat) : Nat :=
  let h := if shift = 0 then 0 else 2 ^ (shift - 1)
  min 65535 ((magnitude + h) / 2 ^ shift)

/-- R16. -/
def outMagnitude (f : MagnitudeForm) (shift : Nat) (magnitude : BitVec 24) : Nat :=
  match f with
  | .m24 => magnitude.toNat
  | .m16 => shiftedMagnitude shift magnitude.toNat

end Sys2Proof.Machine
end

