-- ==== Sys2Proof/Machine/Flags.lean ====
section
/-! DEFINITION. The fault flags (R177) and the ALERT pin (R179). -/

namespace Sys2Proof.Machine

/-- A flag's place in the fault flag order of R186, also its CONGESTION detail (R187). -/
def FaultFlag.index : FaultFlag → Nat
  | .storeExhausted => 0 | .pressure => 1 | .overrun => 2 | .releaseDrop => 3
  | .ingestOverflow => 4 | .noticeLoss => 5 | .commandOverflow => 6 | .timeFreeRun => 7

def FlagSet.get (f : FlagSet) : FaultFlag → Bool
  | .storeExhausted => f.storeExhausted | .pressure => f.pressure | .overrun => f.overrun
  | .releaseDrop => f.releaseDrop | .ingestOverflow => f.ingestOverflow
  | .noticeLoss => f.noticeLoss | .commandOverflow => f.commandOverflow
  | .timeFreeRun => f.timeFreeRun

def FlagSet.set (f : FlagSet) : FaultFlag → FlagSet
  | .storeExhausted => { f with storeExhausted := true }
  | .pressure => { f with pressure := true }
  | .overrun => { f with overrun := true }
  | .releaseDrop => { f with releaseDrop := true }
  | .ingestOverflow => { f with ingestOverflow := true }
  | .noticeLoss => { f with noticeLoss := true }
  | .commandOverflow => { f with commandOverflow := true }
  | .timeFreeRun => { f with timeFreeRun := true }

/-- The marks in the order of R186. -/
def FlagSet.toList (f : FlagSet) : List Bool :=
  [f.storeExhausted, f.pressure, f.overrun, f.releaseDrop, f.ingestOverflow, f.noticeLoss,
   f.commandOverflow, f.timeFreeRun]

/-- Clear every flag that is marked (R178). -/
def FlagSet.clearMarked (f marks : FlagSet) : FlagSet :=
  ⟨f.storeExhausted && !marks.storeExhausted, f.pressure && !marks.pressure,
   f.overrun && !marks.overrun, f.releaseDrop && !marks.releaseDrop,
   f.ingestOverflow && !marks.ingestOverflow, f.noticeLoss && !marks.noticeLoss,
   f.commandOverflow && !marks.commandOverflow, f.timeFreeRun && !marks.timeFreeRun⟩

/-- Some flag is set whose enable is on (R179). -/
def FlagSet.anyEnabled (f enables : FlagSet) : Bool :=
  f.storeExhausted && enables.storeExhausted || f.pressure && enables.pressure ||
  f.overrun && enables.overrun || f.releaseDrop && enables.releaseDrop ||
  f.ingestOverflow && enables.ingestOverflow || f.noticeLoss && enables.noticeLoss ||
  f.commandOverflow && enables.commandOverflow || f.timeFreeRun && enables.timeFreeRun

/-- ALERT is asserted (R179): before the first successful START, and then while an enabled flag is
set. It follows each change at once, so it is read off the state. -/
def State.alert (s : State) : Bool :=
  !s.reporting.startMark || s.reporting.faults.anyEnabled s.reporting.alertEnables

/-- The electrical level of the ALERT pin: driven low while asserted (R188). -/
def State.alertHigh (s : State) : Bool := !s.alert

/-- Set a fault flag (R177). -/
def setFlag (f : FaultFlag) (s : State) : State :=
  { s with reporting := { s.reporting with faults := s.reporting.faults.set f } }

def State.flag (s : State) (f : FaultFlag) : Bool := s.reporting.faults.get f

end Sys2Proof.Machine
end

