-- ==== Sys2Proof/Machine/Operands.lean ====
section
/-! DEFINITION. Fields as bytes: how a field is read from a body and written into one (R183 to R187),
and the code each enumerated choice is carried as (R186, R187; log 8). -/

namespace Sys2Proof.Machine

/-! ## Reading fields -/

/-- A big-endian number. -/
def beNat (bytes : List Byte) : Nat := bytes.foldl (fun n b => n * 256 + b.toNat) 0

/-- The bytes of a field. -/
def bytesAt (body : List Byte) (offset width : Nat) : List Byte := (body.drop offset).take width

/-- A big-endian field of a body (R186). -/
def fieldAt (body : List Byte) (offset width : Nat) : Nat := beNat (bytesAt body offset width)

/-- A field in a byte order: little-endian fields have their bytes in reverse (R184). -/
def orderedField (o : ByteOrder) (body : List Byte) (offset width : Nat) : Nat :=
  match o with
  | .big => fieldAt body offset width
  | .little => beNat (bytesAt body offset width).reverse

/-! ## Writing fields -/

/-- The least significant `w` bytes of a number, least significant first. -/
def leBytes : Nat → Nat → List Byte
  | 0, _ => []
  | w + 1, n => BitVec.ofNat 8 n :: leBytes w (n / 256)

/-- A big-endian field of `w` bytes (R186). -/
def beBytes (w n : Nat) : List Byte := (leBytes w n).reverse

/-- A field of `w` bytes in a byte order (R187). -/
def orderedBytes (o : ByteOrder) (w n : Nat) : List Byte :=
  match o with
  | .big => beBytes w n
  | .little => leBytes w n

/-- A counter, count, depth or duration (R186, Widths). -/
def be4 (n : Nat) : List Byte := beBytes 4 n

/-- An instant number or a local time in grains (R186, Widths). -/
def be8 (n : Nat) : List Byte := beBytes 8 n

/-- An identifier, source index, revision or list count (R186, Widths). -/
def be2 (n : Nat) : List Byte := beBytes 2 n

/-- One byte (R186, Enumerations). -/
def be1 (n : Nat) : List Byte := [BitVec.ofNat 8 n]

/-- An option of off and on (R186); so too a single mark, or that something is so (log 8). -/
def optionByte (b : Bool) : List Byte := be1 (if b then 1 else 0)

/-- The value bytes of an absent value: `w` free bytes of reply `n`, from place `k` on (log 3). -/
def absentBytes (n k : Nat) : Nat → List Byte
  | 0 => []
  | w + 1 => Config.absentByte n k :: absentBytes n (k + 1) w

/-- A value that may be absent: a presence byte, then its bytes in both cases (R186). `n` and `k`
place its free bytes. -/
def maybeBytes (n k w : Nat) : Option Nat → List Byte
  | some v => be1 1 ++ beBytes w v
  | none => be1 0 ++ absentBytes n k w

/-- The mark bytes of eight flags, one byte each (R186). -/
def flagBytes (f : FlagSet) : List Byte := f.toList.flatMap optionByte

/-! ## Codes: each choice is numbered from 0 in the order its owning rule lists it (R186) -/

def TimeQuality.code : TimeQuality → Nat
  | .unset => 0 | .locked => 1 | .holdover => 2 | .freeRun => 3

def OpState.code : OpState → Nat
  | .idle => 0 | .running => 1 | .draining => 2

def EntryState.code : EntryState → Nat
  | .unused => 0 | .declared => 1 | .active => 2 | .stalled => 3 | .suspended => 4
  | .retiring => 5

def ByteOrder.code : ByteOrder → Nat
  | .big => 0 | .little => 1

def HoldPolicy.code : HoldPolicy → Nat
  | .absent => 0 | .hold => 1

def SlotState.code : SlotState → Nat
  | .opened => 0 | .ready => 1 | .closed => 2 | .assembling => 3

def Opener.code : Opener → Nat
  | .arrival => 0 | .cadence => 1

def CloseReason.code : CloseReason → Nat
  | .complete => 0 | .deadline => 1 | .demand => 2 | .pressure => 3 | .overrun => 4 | .stop => 5

def ReleaseMode.code : ReleaseMode → Nat
  | .early => 0 | .deadline => 1 | .demand => 2

def WaitMode.code : WaitMode → Nat
  | .fixed => 0 | .adaptive => 1

def ArbiterMode.code : ArbiterMode → Nat
  | .priority => 0 | .roundRobin => 1

def Receiver.code : Receiver → Nat
  | .off => 0 | .hunt => 1 | .marker => 2 | .length _ => 3 | .frame _ _ => 4

def Destination.code : Destination → Nat
  | .rl0 => 0 | .rl1 => 1 | .cl => 2

def AngleForm.code : AngleForm → Nat
  | .bin16 => 0 | .cdeg => 1

def MagnitudeForm.code : MagnitudeForm → Nat
  | .m24 => 0 | .m16 => 1

def NoticeClass.code : NoticeClass → Nat
  | .time => 0 | .source => 1 | .unknown => 2 | .view => 3 | .congestion => 4 | .overdue => 5

def Status.code : Status → Nat
  | .ok => 0 | .busy => 1 | .unknownRequest => 2 | .badLength => 3 | .wrongState => 4
  | .badField => 5 | .noTime => 6 | .tableFull => 7 | .notFound => 8 | .exists => 9
  | .inUse => 10 | .timeConflict => 11

/-- A link set as one byte, bit `k` for ILk (R186, Marks). -/
def linkSetCode (p : PerLink Bool) : Nat :=
  (if p.il0 then 1 else 0) + (if p.il1 then 2 else 0) + (if p.il2 then 4 else 0) +
  (if p.il3 then 8 else 0)

/-- The link set of a byte (R186, Marks). -/
def linkSetOf (n : Nat) : PerLink Bool :=
  ⟨n.testBit 0, n.testBit 1, n.testBit 2, n.testBit 3⟩

/-- The byte order of a code that check 4 has passed. -/
def byteOrderOf (n : Nat) : ByteOrder := if n = 0 then .big else .little

end Sys2Proof.Machine
end

