-- ==== Sys2Proof/Machine/Formats.lean ====
section
/-! DEFINITION. The envelope and the CRC (R183), the walk of a receiver through a byte stream (R34 to
R36, R156), and the bodies the part builds (R186, R187). -/

namespace Sys2Proof.Machine

/-! ## CRC-32 (R183) -/

/-- One shift of the CRC register toward its least significant end, in reflected form. -/
def crcShift (r : BitVec 32) : BitVec 32 :=
  if r.getLsbD 0 then (r >>> 1) ^^^ 0xEDB88320#32 else r >>> 1

/-- A byte enters the register, least significant bit first. -/
def crcByte (r : BitVec 32) (b : Byte) : BitVec 32 :=
  crcShift (crcShift (crcShift (crcShift (crcShift (crcShift (crcShift (crcShift
    (r ^^^ b.zeroExtend 32))))))))

/-- The CRC over kind and body: the register starts at all ones and the final value is inverted. -/
def crc32 (bytes : List Byte) : BitVec 32 := ~~~(bytes.foldl crcByte 0xFFFFFFFF#32)

/-- The four CRC bytes, least significant first. -/
def crcBytes (bytes : List Byte) : List Byte := leBytes 4 (crc32 bytes).toNat

/-! ## The envelope (R183) -/

/-- The first marker byte. -/
def markerFirst : Byte := 0xA5#8

/-- The second marker byte. -/
def markerSecond : Byte := 0x5A#8

def kindMeasurement : Byte := 0x01#8
def kindDescription : Byte := 0x02#8
def kindRequest : Byte := 0x10#8
def kindReply : Byte := 0x11#8
def kindNotice : Byte := 0x12#8
def kindSet : Byte := 0x13#8

/-- The bytes of a frame on a line. -/
def frameBytes (kind : Byte) (body : List Byte) : List Byte :=
  [markerFirst, markerSecond] ++ be2 (body.length + 1) ++ kind :: body ++ crcBytes (kind :: body)

/-! ## The receiver (R33 to R36, R156) -/

/-- What a byte brings about besides the receiver's next state. -/
inductive Received
  /-- Nothing. -/
  | nothing
  /-- Bytes discarded while hunting for a marker, to be counted in HUNT_BYTES (R34). -/
  | discarded (n : Nat)
  /-- A length outside the limits, to be counted in LENGTH_ERROR (R35, R156). -/
  | badLength
  /-- A frame is whole: its kind and body bytes, and its four CRC bytes (R36). -/
  | whole (content crc : List Byte)
deriving DecidableEq, Repr

/-- A byte taken by a receiver whose link accepts lengths from `low` to `high`. -/
def Receiver.take (low high : Nat) (r : Receiver) (b : Byte) : Receiver × Received :=
  match r with
  | .off => (.off, .nothing)
  | .hunt => if b = markerFirst then (.marker, .nothing) else (.hunt, .discarded 1)
  | .marker =>
    if b = markerSecond then (.length none, .nothing)
    else if b = markerFirst then (.marker, .discarded 1)
    else (.hunt, .discarded 2)
  | .length none => (.length (some b), .nothing)
  | .length (some first) =>
    let n := beNat [first, b]
    if low ≤ n ∧ n ≤ high then (.frame n [], .nothing) else (.hunt, .badLength)
  | .frame n got =>
    let all := got ++ [b]
    if all.length < n + 4 then (.frame n all, .nothing)
    else (.hunt, .whole (all.take n) (all.drop n))

/-- The next byte is the last CRC byte of a frame (R36). -/
def Receiver.oneByteShort : Receiver → Bool
  | .frame n got => n + 4 ≤ got.length + 1
  | _ => false

/-! ## Bodies the part builds -/

/-- The body of a REPLY (R186). -/
def replyBody (r : Reply) : List Byte := r.code :: r.tag :: be1 r.status.code ++ r.result

/-- Kind and value of a notice's subject (R187). -/
def subjectBytes : Subject → List Byte
  | .none => be1 0 ++ be2 0
  | .source i => be1 1 ++ be2 i
  | .view v => be1 2 ++ be2 v.index
  | .ingest l => be1 3 ++ be2 l.index
  | .queue d => be1 4 ++ be2 d.code

/-- The body of a NOTICE, 17 bytes (R187). -/
def noticeBody (n : Notice) : List Byte :=
  be1 n.cls.code ++ be1 n.priority ++ subjectBytes n.subject ++ be8 n.detail ++ be4 n.second

/-- The body of a SET: the 11-byte header, then its entries (R142, R187). -/
def setBody (o : OutSet) : List Byte :=
  be1 o.tag ++ be2 o.revision.toNat ++ be4 o.second ++ be1 o.index ++ be1 o.reason.code ++
  be1 o.quality.code ++ be1 (o.entryCount - 1) ++ o.entries

/-- The flags byte of a SET entry (R187). -/
def entryFlags (r : SampleRecord) (held short : Bool) : Nat :=
  (if r.invalid then 1 else 0) + (if r.poorTime then 2 else 0) +
  (if r.reReferenced then 4 else 0) + (if r.unReferenced then 8 else 0) +
  (if held then 16 else 0) + (if short then 32 else 0)

/-- The places of the marks of a selection, rising from `k`. -/
def marksFrom (bits k : Nat) : Nat → List Nat
  | 0 => []
  | c + 1 => (if bits.testBit k then [k] else []) ++ marksFrom bits (k + 1) c

/-- The marked phasors of a list entry, as places from 0 (R133). -/
def ListEntry.phasorMarks (e : ListEntry) : List Nat := marksFrom e.phasors.toNat 0 16

/-- The marked analogs of a list entry, as places from 0 (R133). -/
def ListEntry.analogMarks (e : ListEntry) : List Nat := marksFrom e.analogs.toNat 0 8

/-- SHAPE_SHORT (R143): a mark lies beyond the source record's own counts. -/
def shapeShort (e : ListEntry) (r : SampleRecord) : Bool :=
  e.phasorMarks.any (fun k => decide (r.phasors.length ≤ k)) ||
  e.analogMarks.any (fun k => decide (r.analogs.length ≤ k))

/-- δ as the signed 24-bit offset field, clamped to its range (R143). -/
def offsetField (offset : Int) : Nat :=
  (BitVec.ofInt 24 (max (-8388608) (min 8388607 offset))).toNat

/-- A marked phasor of a SET entry (R143, R15, R16, R187); zero beyond the record's count. -/
def phasorBytes (d : Descriptor) (r : SampleRecord) (k : Nat) : List Byte :=
  let w := match d.magnitudeForm with | .m24 => 3 | .m16 => 2
  match r.phasors[k]? with
  | some p =>
    orderedBytes d.order 2 (outAngle d.angleForm p.angle) ++
      orderedBytes d.order w (outMagnitude d.magnitudeForm d.shift p.magnitude)
  | none => orderedBytes d.order 2 0 ++ orderedBytes d.order w 0

/-- A marked analog of a SET entry (R143). -/
def analogBytes (d : Descriptor) (r : SampleRecord) (k : Nat) : List Byte :=
  orderedBytes d.order 2 ((r.analogs[k]?).getD 0).toNat

/-- What a PRESENT or HELD entry carries after its disposition (R143, R187). -/
def valueBytes (d : Descriptor) (e : ListEntry) (r : SampleRecord) (held : Bool) : List Byte :=
  be1 (entryFlags r held (shapeShort e r)) ++ orderedBytes d.order 3 (offsetField r.offset) ++
  be1 r.quality ++ orderedBytes d.order 2 r.status.toNat ++
  (if d.includeFrequency then
    orderedBytes d.order 2 r.frequency.toNat ++ orderedBytes d.order 2 r.rocof.toNat else []) ++
  e.phasorMarks.flatMap (phasorBytes d r) ++ e.analogMarks.flatMap (analogBytes d r)

/-- A SET entry (R143, R187). -/
def setEntryBytes (d : Descriptor) (e : ListEntry) (r : DispositionRecord) : List Byte :=
  orderedBytes d.order 2 r.id.toNat ++
  match r.disposition with
  | .present rec => be1 0 ++ valueBytes d e rec false
  | .held rec => be1 1 ++ valueBytes d e rec true
  | .absent => be1 2
  | .notExpected => be1 3

/-! ## What a line carries -/

/-- The frame a Release Link or the Command Link sends for a SET. -/
def setFrame (o : OutSet) : List Byte := frameBytes kindSet (setBody o)

/-- The frame of a REPLY or NOTICE on the Command Link. -/
def LineFrame.bytes : LineFrame → List Byte
  | .reply r => frameBytes kindReply (replyBody r)
  | .notice n => frameBytes kindNotice (noticeBody n)

/-- The frame in transmission on the Command Link (R155). -/
def State.commandLineFrame (s : State) : Option (List Byte) :=
  match s.command.line with
  | some f => some f.bytes
  | none =>
    if s.release.commandQueue.sending then s.release.commandQueue.sets.head?.map setFrame else none

/-- The frame in transmission on a Release Link (R147). -/
def State.releaseLineFrame (s : State) (l : RelId) : Option (List Byte) :=
  let q := s.release.queue l.destination
  if q.sending then q.sets.head?.map setFrame else none

end Sys2Proof.Machine
end

