-- ==== Sys2Proof/Machine/Reporting.lean ====
section
/-! DEFINITION. The transmit arbiter of the Command Link (R164) and the raising of notices (R173 to
R175), which every family uses. -/

namespace Sys2Proof.Machine

/-! ## The transmit arbiter -/

/-- The Command Link's line carries a frame (R155, R164). -/
def State.lineBusy (s : State) : Bool :=
  s.command.line.isSome || s.release.commandQueue.sending

/-- The reply of a STOP whose drain has ended: it is made, the STOP leaves the queue and the processor
becomes FREE (R161). -/
def makeStopReply (s : State) : State :=
  match s.command.requests with
  | [] => { s with command := { s.command with processor := .free } }
  | r :: rest =>
    { s with command :=
      { s.command with
        replies := s.command.replies ++ [⟨r.code, r.tag, .ok, []⟩]
        requests := rest
        processor := .free } }

/-- A reply has left the reply list: the place it leaves goes to what waits for it (R159, R161, R164). -/
def replyPlaceFreed (s : State) : State :=
  match s.command.processor with
  | .awaitingRoom => { s with command := { s.command with processor := .free } }
  | .awaitingDrain => if s.reporting.opState = .draining then s else makeStopReply s
  | .free | .awaitingReset | .executing => s

/-- The choice of R164, made when the line carries no frame: the oldest reply, else the first notice,
else the head SET of the Command Release Queue. -/
def transmitChoice (s : State) : State :=
  if s.lineBusy then s
  else
    match s.command.replies with
    | r :: rest =>
      replyPlaceFreed
        { s with command := { s.command with line := some (.reply r), replies := rest } }
    | [] =>
      match s.reporting.notices with
      | n :: rest =>
        { s with
          command := { s.command with line := some (.notice n) }
          reporting := { s.reporting with notices := rest } }
      | [] =>
        if s.release.commandQueue.sets = [] then s
        else s.modifyQueue .cl fun q => { q with sending := true }

/-- A reply joins the reply list, and an idle line chooses at once (R159, R164). -/
def appendReply (r : Reply) (s : State) : State :=
  transmitChoice { s with command := { s.command with replies := s.command.replies ++ [r] } }

/-! ## Notices -/

/-- Insert a notice in transmit order: behind every notice of its own or higher priority (R174). -/
def insertNotice (n : Notice) : List Notice → List Notice
  | [] => [n]
  | m :: rest => if n.priority ≤ m.priority then m :: insertNotice n rest else n :: m :: rest

/-- The lowest priority of a list of notices (R175). -/
def lowestPriority : List Notice → Nat
  | [] => 0
  | n :: rest => rest.foldl (fun p m => min p m.priority) n.priority

/-- Remove the earliest notice of a priority: the first of it in transmit order (R174, R175). -/
def removeEarliest (p : Nat) : List Notice → List Notice
  | [] => []
  | m :: rest => if m.priority = p then rest else m :: removeEarliest p rest

/-- One notice is lost (R175). -/
def noticeLost (s : State) : State :=
  setFlag .noticeLoss
    { s with reporting := { s.reporting with lostNotices := bump s.reporting.lostNotices } }

/-- A raised notice of an OPEN class takes its place, or is lost or displaces one (R174, R175). -/
def enterNotice (n : Notice) (s : State) : State :=
  let q := s.reporting.notices
  if q.length < Config.noticeCapacity then
    { s with reporting := { s.reporting with notices := insertNotice n q } }
  else if lowestPriority q < n.priority then
    noticeLost
      { s with reporting :=
        { s.reporting with notices := insertNotice n (removeEarliest (lowestPriority q) q) } }
  else noticeLost s

/-- A notice has entered the queue: an idle line chooses at once (R164), but inside the execution of a
request the choice waits for the reply, which is chosen first (R165; log 9). -/
def afterNotice (s : State) : State :=
  if s.command.processor = .executing then s else transmitChoice s

/-- A block raises a notice (R173): nothing of a MASKED class; else the notice enters the queue, and the
line may choose. -/
def raiseNotice (c : NoticeClass) (subject : Subject) (detail : Nat) (s : State) : State :=
  let setting := s.reporting.classes.get c
  if setting.masked then s
  else
    afterNotice (enterNotice
      { cls := c, priority := setting.priority, subject := subject, detail := detail,
        second := s.time.second } s)

/-- An event that sets a flag with a CONGESTION notice when it finds it clear (R39, R87, R146, R177). -/
def congestion (f : FaultFlag) (subject : Subject) (s : State) : State :=
  if s.flag f then s else raiseNotice .congestion subject f.index (setFlag f s)

/-- Causes of a TIME notice (R24), in the code order of R187. -/
inductive TimeCause
  | captured | pending | pendingDiscarded | stepped | outliers | missing | holdoverLimit
deriving DecidableEq, Repr

def TimeCause.code : TimeCause → Nat
  | .captured => 0 | .pending => 1 | .pendingDiscarded => 2 | .stepped => 3 | .outliers => 4
  | .missing => 5 | .holdoverLimit => 6

/-- Raise a TIME notice with the quality after the event (R24, R187). -/
def raiseTime (cause : TimeCause) (s : State) : State :=
  raiseNotice .time .none (s.time.quality.code * 256 + cause.code) s

/-- Causes of a SOURCE notice (R173), in the code order of R187. -/
inductive SourceCause
  | stalled | recovered | shapeChanged
deriving DecidableEq, Repr

def SourceCause.code : SourceCause → Nat
  | .stalled => 0 | .recovered => 1 | .shapeChanged => 2

/-- Raise a SOURCE notice (R63, R71, R94, R128). -/
def raiseSource (i : Nat) (cause : SourceCause) (s : State) : State :=
  raiseNotice .source (.source i) cause.code s

end Sys2Proof.Machine
end

