-- ==== Sys2Proof/Machine/ReleaseQueues.lean ====
section
/-! DEFINITION. The three release queues and the two Release Links (R145 to R152): hand-over, looking
at BUSY between SETs, cutting and discarding. -/

namespace Sys2Proof.Machine

/-- Link states (R147), in its order. -/
inductive LinkState
  | disabled | inhibited | sending | paused | idle
deriving DecidableEq, Repr

def LinkState.code : LinkState → Nat
  | .disabled => 0 | .inhibited => 1 | .sending => 2 | .paused => 3 | .idle => 4

/-- The link state, decided by the switch, INHIBIT, the queue and its transmission (R147). A link with
a SET waiting and none in transmission found BUSYn asserted when it last looked. -/
def State.linkState (s : State) (l : RelId) : LinkState :=
  let q := s.release.queue l.destination
  if !s.enabled l then .disabled
  else if s.pins.inhibit then .inhibited
  else if q.sending then .sending
  else if q.sets = [] then .idle
  else .paused

/-- Append a SET to a queue (R145, R146). -/
def ReleaseQueue.append (q : ReleaseQueue) (o : OutSet) : ReleaseQueue :=
  { q with sets := q.sets ++ [o], counters := { q.counters with queued := bump q.counters.queued } }

/-- Discard the oldest SET that is not in transmission (R146). -/
def ReleaseQueue.dropOldest (q : ReleaseQueue) : ReleaseQueue :=
  { q with
    sets := if q.sending then q.sets.take 1 ++ q.sets.drop 2 else q.sets.drop 1
    counters := { q.counters with dropped := bump q.counters.dropped } }

/-- Stop the transmission in progress: the SET leaves the head, counted CUT (R149). -/
def ReleaseQueue.cut (q : ReleaseQueue) : ReleaseQueue :=
  if q.sending then
    { q with sets := q.sets.drop 1, sending := false,
             counters := { q.counters with cut := bump q.counters.cut } }
  else q

/-- Cut, then discard every queued SET at the head, each counted INHIBITED_DROPS (R149). -/
def ReleaseQueue.inhibit (q : ReleaseQueue) : ReleaseQueue :=
  let c := q.cut
  { c with sets := [], counters :=
    { c.counters with inhibitedDrops := bumpBy c.sets.length c.counters.inhibitedDrops } }

/-- Cut, then discard every other queued SET, each counted FLUSHED (R152, R154). -/
def ReleaseQueue.flush (q : ReleaseQueue) : ReleaseQueue :=
  let c := q.cut
  { c with sets := [], counters :=
    { c.counters with flushed := bumpBy c.sets.length c.counters.flushed } }

/-- The end of the head SET's transmission (R148, R151). -/
def ReleaseQueue.sentHead (q : ReleaseQueue) : ReleaseQueue :=
  { q with sets := q.sets.drop 1, sending := false,
           counters := { q.counters with sent := bump q.counters.sent } }

/-- An enabled link that is not INHIBITED looks at its BUSY pin between SETs: with a SET at the head,
and BUSYn not asserted, transmission begins (R148). -/
def lookAtBusy (l : RelId) (s : State) : State :=
  let q := s.release.queue l.destination
  if s.enabled l && !s.pins.inhibit && !q.sending && !s.busy l && !q.sets.isEmpty then
    s.modifyQueue l.destination fun q => { q with sending := true }
  else s

/-- After a SET has joined a queue: an idle Release Link looks at BUSYn, and an idle Command Link
chooses (R148, R164). A PAUSED link does not look, for its queue was not empty. -/
def afterAppend (d : Destination) (wasEmpty : Bool) (s : State) : State :=
  match d with
  | .rl0 => if wasEmpty then lookAtBusy .rl0 s else s
  | .rl1 => if wasEmpty then lookAtBusy .rl1 s else s
  | .cl => transmitChoice s

/-- A destination that is a DISABLED Release Link (R146). -/
def State.destinationDisabled (s : State) : Destination → Bool
  | .rl0 => !s.release.enabled0
  | .rl1 => !s.release.enabled1
  | .cl => false

/-- The hand-over of a SET to a destination (R146, R149). -/
def handOver (d : Destination) (o : OutSet) (s : State) : State :=
  let q := s.release.queue d
  if s.destinationDisabled d then
    s.modifyQueue d fun q =>
      { q with counters := { q.counters with disabledDrops := bump q.counters.disabledDrops } }
  else if s.pins.inhibit then
    s.modifyQueue d fun q => (q.append o).inhibit
  else if q.sets.length < Config.releaseCapacity then
    afterAppend d q.sets.isEmpty (s.modifyQueue d fun q => q.append o)
  else
    afterAppend d false
      (congestion .releaseDrop (.queue d) (s.modifyQueue d fun q => q.dropOldest.append o))

/-- Every release queue acts at once on an asserted INHIBIT, and a Command Link whose SET was cut
chooses at once (R149, R164). -/
def inhibitQueues (s : State) : State :=
  transmitChoice
    { s with release :=
      { s.release with
        queue0 := s.release.queue0.inhibit
        queue1 := s.release.queue1.inhibit
        commandQueue := s.release.commandQueue.inhibit } }

/-- A window reset cuts the SETs in transmission and flushes the rest (R154). This cut is no moment of
choice for the Command Link (R164 names that of R149), and the notice queue stands as it was (R171): the
line chooses when the reply of RESET_WINDOW joins the reply list. -/
def flushQueues (s : State) : State :=
  { s with release :=
    { s.release with
      queue0 := s.release.queue0.flush
      queue1 := s.release.queue1.flush
      commandQueue := s.release.commandQueue.flush } }

/-- Disable an enabled link: its transmission is cut and its queue flushed (R152). -/
def disableLink (l : RelId) (s : State) : State :=
  if s.enabled l then (s.setEnabled l false).modifyQueue l.destination ReleaseQueue.flush else s

/-- Enable a disabled link: its queue is empty (R152). -/
def enableLink (l : RelId) (s : State) : State := s.setEnabled l true

end Sys2Proof.Machine
end

