-- ==== Sys2Proof/Machine/AssemblyOps.lean ====
section
/-! DEFINITION. What the Assembler does (R121 to R131, R138, R141 to R144), as operations the window's
closes and the assembly commands share: the take, the disposition pass, the boundary switch, the
consideration of views, the building of a SET. -/

namespace Sys2Proof.Machine

/-! ## The end of an entry -/

/-- An entry on becoming UNUSED: its counters are kept until the next declaration (R67); the rest of an
UNUSED entry shows nowhere (log 5). -/
def Entry.ended (e : Entry) : Entry := { Entry.unused with counters := e.counters }

/-- An entry becomes UNUSED: its identifier leaves the map and its hold record is emptied (R66, R67). -/
def endEntry (i : Nat) (s : State) : State := (s.setEntry i (s.entry i).ended).emptyHold i

/-- The listed source indices, rising. -/
def State.sourceIndices (s : State) : List Nat := s.sources.map (·.1)

/-! ## The disposition pass -/

/-- The pass visits the entry (R125). -/
def Entry.visited (e : Entry) : Bool :=
  match e.state with
  | .declared | .active | .stalled | .suspended => true
  | .unused | .retiring => false

/-- A miss is counted against an entry that is absent at instant `n` (R127). -/
def Entry.misses (rate n : Nat) (e : Entry) : Bool :=
  e.state = .active && expectedAt rate e.shape.rate n &&
    match e.receipt.newest with
    | none => true
    | some newest => decide (newest < n)

/-- The miss count after a miss, and the stall it brings at the threshold (R127, R128). -/
def Entry.afterMiss (e : Entry) : Entry :=
  let m := { e with missCount := e.missCount + 1 }
  if m.missCount = m.options.stallThreshold then
    { m with state := .stalled, counters := { m.counters with stalls := bump m.counters.stalls } }
  else m

/-- The hold record that R129 may release for an entry. -/
def Entry.releasable (hold : Option SampleRecord) (e : Entry) : Option SampleRecord :=
  if (e.state = .active ∨ e.state = .stalled) ∧ e.options.holdPolicy = .hold then hold else none

/-- The disposition of an entry with no sample, any miss having been counted (R129, R130). -/
def Entry.disposeAbsent (rate n : Nat) (hold : Option SampleRecord) (e : Entry) :
    Entry × Disposition :=
  let expected := expectedAt rate e.shape.rate n
  match e.releasable hold with
  | some h =>
    if expected then
      if e.heldCount < e.options.holdLimit then
        ({ e with heldCount := e.heldCount + 1,
                  counters := { e.counters with held := bump e.counters.held } }, .held h)
      else
        ({ e with counters := { e.counters with absent := bump e.counters.absent } }, .absent)
    else (e, .held h)
  | none => (e, if expected then .absent else .notExpected)

/-- The disposition of a visited entry at instant `n`, from its sample in the slot and its hold record
(R126 to R130). -/
def Entry.dispose (rate n : Nat) (sample hold : Option SampleRecord) (e : Entry) :
    Entry × Disposition :=
  match sample with
  | some r => ({ e with heldCount := 0 }, .present r)
  | none => (if e.misses rate n then e.afterMiss else e).disposeAbsent rate n hold

/-- A PRESENT sample becomes the hold record if it has the entry's shape (R126). -/
def keepHold (i : Nat) (e : Entry) (r : SampleRecord) (s : State) : State :=
  if r.phasors.length = e.shape.phasors ∧ r.analogs.length = e.shape.analogs then
    { s with assembler :=
      { s.assembler with holdBank := tableInsert i r s.assembler.holdBank } }
  else s

/-- The pass at one entry, with the mark that a stall has asked for re-evaluation (R125, R128). -/
def visitEntry (n : Nat) (contributors : Table SampleRecord) (acc : State × Bool) (i : Nat) :
    State × Bool :=
  let s := acc.1
  let e := s.entry i
  if e.visited then
    let sample := tableFind i contributors
    let d := e.dispose s.grid.rate n sample (s.hold? i)
    let s1 := s.setEntry i d.1
    let s2 := match sample with
      | some r => keepHold i e r s1
      | none => s1
    let s3 := { s2 with assembler :=
      { s2.assembler with dispositions := s2.assembler.dispositions ++ [⟨i, e.id, d.2⟩] } }
    if e.state = .active ∧ d.1.state = .stalled then (raiseSource i .stalled s3, true)
    else (s3, acc.2)
  else acc

/-- The disposition pass over the Source Table, in source index order (R125). -/
def dispositionPass (n : Nat) (contributors : Table SampleRecord) (s : State) : State × Bool :=
  s.sourceIndices.foldl (visitEntry n contributors) (s, false)

/-! ## The boundary switch -/

/-- A descriptor or a retire takes effect: the revision increases, wrapping (R132, R136, R138). -/
def View.takeEffect (v : View) (content : Option Descriptor) : View :=
  { v with current := content, staged := none, revision := v.revision + 1 }

/-- The boundary switch of one view at a slot of index 0 of a second (R138); an effective second of 0
is at or below every second. -/
def switchView (second : Nat) (s : State) (v : ViewId) : State :=
  match (s.view v).staged with
  | some st =>
    if st.effectiveSecond ≤ second then
      let s1 := s.modifyView v fun w => w.takeEffect st.content
      raiseNotice .view (.view v)
        ((s1.view v).revision.toNat * 256 + (if st.content.isNone then 1 else 0)) s1
    else s
  | none => s

/-- The boundary switch of V0 to V7 in index order (R121, R138). -/
def boundarySwitch (second : Nat) (s : State) : State := ViewId.all.foldl (switchView second) s

/-! ## Building -/

/-- The disposition record of a source (R125). -/
def State.dispositionOf (s : State) (i : Nat) : Option DispositionRecord :=
  s.assembler.dispositions.find? fun r => r.source = i

/-- A source is PRESENT in the disposition list (R141). -/
def State.presentInList (s : State) (i : Nat) : Bool :=
  match s.dispositionOf i with
  | some ⟨_, _, .present _⟩ => true
  | _ => false

/-- The views are considered in order until one selects the instant `n`; a complete-only view with a
listed source that is not PRESENT is skipped and counted (R141). -/
def considerViews (n : Nat) : List ViewId → State → State
  | [], s => { s with assembler := { s.assembler with nextView := none } }
  | v :: rest, s =>
    match (s.view v).current with
    | none => considerViews n rest s
    | some d =>
      if instantIndex s.grid.rate n % d.divisor ≠ 0 then considerViews n rest s
      else if d.completeOnly && !(d.sources.all fun e => s.presentInList e.source) then
        considerViews n rest
          (s.modifyView v fun w => { w with skippedIncomplete := bump w.skippedIncomplete })
      else { s with assembler := { s.assembler with nextView := some v } }

/-- The SET of a view for the slot in assembly (R142, R143). -/
def buildSet (s : State) (v : ViewId) (d : Descriptor) (n : Nat) (reason : CloseReason) : OutSet :=
  { tag := d.tag
    revision := (s.view v).revision
    second := instantSecond s.grid.rate n
    index := instantIndex s.grid.rate n
    reason := reason
    quality := s.time.quality
    entryCount := d.sources.length
    entries := d.sources.flatMap fun e =>
      match s.dispositionOf e.source with
      | some r => setEntryBytes d e r
      | none => [] }

/-! ## The take -/

/-- The slot at the head of the Assembly Queue is taken (R121): the take, the boundary switch at index
0, the disposition pass and the start of building. The mark says that a stall asks for
re-evaluation, which is taken after the take. -/
def takeHead (n : Nat) (rest : List Nat) (s : State) : State × Bool :=
  let rate := s.grid.rate
  let contributors := match s.slot? n with
    | some slot => slot.contributors
    | none => []
  let s1 := { s with
    window := { s.window with
      assemblyQueue := rest
      slots := tableModify n (fun slot => { slot with state := .assembling }) s.window.slots }
    assembler := { s.assembler with current := some n, dispositions := [] } }
  let s2 := if instantIndex rate n = 0 then boundarySwitch (instantSecond rate n) s1 else s1
  let p := dispositionPass n contributors s2
  (considerViews n ViewId.all p.1, p.2)

/-- An idle Assembler takes the head of a queue that is not empty (R113, R121). -/
def takeIfIdle (s : State) : State × Bool :=
  match s.assembler.current, s.window.assemblyQueue with
  | none, n :: rest => takeHead n rest s
  | _, _ => (s, false)

/-! ## Hand-over and end -/

/-- The SET being built is whole: it is handed to its destination, SETS_BUILT is counted, and the next
view is considered (R144). -/
def handOverSet (s : State) : State :=
  match s.assembler.current, s.assembler.nextView with
  | some n, some v =>
    match (s.view v).current with
    | none => considerViews n v.after s
    | some d =>
      let reason := ((s.slot? n).bind (·.closeReason)).getD .complete
      let s1 := handOver d.destination (buildSet s v d n reason) s
      considerViews n v.after (s1.modifyView v fun w => { w with setsBuilt := bump w.setsBuilt })
  | _, _ => s

/-- A RETIRING entry whose newest placed instant has been assembled ends (R67, R123). -/
def endIfRetired (n : Nat) (s : State) (i : Nat) : State :=
  let e := s.entry i
  match e.receipt.newest with
  | some newest => if e.state = .retiring ∧ newest ≤ n then endEntry i s else s
  | none => s

/-- Steps 1 to 4 of the end of an assembly (R123): records freed, slot out of the map, retirements
ended, the Assembler's lists emptied. -/
def releaseSlot (n : Nat) (s : State) : State :=
  let count := match s.slot? n with
    | some slot => slot.contributors.length
    | none => 0
  let s1 := { s with window := { s.window with
    freeRecords := s.window.freeRecords + count
    slots := tableErase n s.window.slots } }
  let s2 := s1.sourceIndices.foldl (endIfRetired n) s1
  { s2 with assembler := { s2.assembler with current := none, dispositions := [], nextView := none } }

end Sys2Proof.Machine
end

