-- ==== Sys2Proof/Machine/WindowOps.lean ====
section
/-! DEFINITION. The Release Controller (R97 to R115): opening, completion, closing in instant order,
the completion walk, and how the Assembler and a re-evaluation follow a close. -/

namespace Sys2Proof.Machine

/-! ## Slots -/

/-- OPEN or READY (R98). -/
def Slot.unclosed (s : Slot) : Bool := s.state = .opened || s.state = .ready

/-- The Time Reference watches the slot's deadline (R29, R98). -/
def Slot.watched (s : Slot) : Bool := s.unclosed && !s.overdue

/-- CLOSED or ASSEMBLING: the slot's records are reclaimable (R100). -/
def Slot.reclaimable (s : Slot) : Bool := s.state = .closed || s.state = .assembling

/-- The unclosed slots, oldest first. -/
def State.unclosedSlots (s : State) : Table Slot := s.window.slots.filter fun p => p.2.unclosed

/-- Records attached to the slots of a map (R100). -/
def attachedRecords : Table Slot → Nat
  | [] => 0
  | (_, slot) :: t => slot.contributors.length + attachedRecords t

/-- Reclaimable records (R100). -/
def State.reclaimable (s : State) : Nat :=
  attachedRecords (s.window.slots.filter fun p => p.2.reclaimable)

/-- The room test of R86: fewer than 256 slots, and with `n` at most 255 between oldest and newest. -/
def roomFor (n : Nat) (slots : Table Slot) : Bool :=
  slots.length < Config.slotCapacity &&
    match tableFirst slots, tableLast slots with
    | some oldest, some newest => decide (max newest n ≤ min oldest n + 255)
    | _, _ => true

/-- Open a slot for instant `n` with its deadline (R91, R101). -/
def openSlot (n : Nat) (opener : Opener) (s : State) : State :=
  let slot : Slot :=
    { state := .opened, opener := opener, deadline := deadlineNow s n, contributors := [],
      closeReason := none, overdue := false }
  let count : WindowCounters → WindowCounters := match opener with
    | .arrival => fun c => { c with openedByArrival := bump c.openedByArrival }
    | .cadence => fun c => { c with openedByCadence := bump c.openedByCadence }
  { s with window := { s.window with
    slots := tableInsert n slot s.window.slots, counters := count s.window.counters } }

/-! ## Completion -/

/-- The source indices a slot for `n` waits for: ACTIVE, required and expected (R104). -/
def awaitedSources (rate n : Nat) (sources : Table Entry) : List Nat :=
  (sources.filter fun p => p.2.awaited && expectedAt rate p.2.shape.rate n).map (·.1)

/-- R104: some source is awaited, and every awaited source is in the contributor list. -/
def slotComplete (rate n : Nat) (sources : Table Entry) (slot : Slot) : Bool :=
  let awaited := awaitedSources rate n sources
  !awaited.isEmpty && awaited.all fun i => (tableFind i slot.contributors).isSome

/-- The evaluation makes the slot READY (R104). -/
def becomesReady (rate n : Nat) (sources : Table Entry) (slot : Slot) : Bool :=
  slot.state = .opened && slotComplete rate n sources slot

/-- An evaluated slot (R104): OPEN becomes READY when complete; READY is not evaluated. -/
def evaluated (rate n : Nat) (sources : Table Entry) (slot : Slot) : Slot :=
  if becomesReady rate n sources slot then { slot with state := .ready } else slot

/-- Evaluate one slot; the mark says it became READY. -/
def evaluateSlot (n : Nat) (s : State) : State × Bool :=
  match s.slot? n with
  | none => (s, false)
  | some slot =>
    if becomesReady s.grid.rate n s.sources slot then
      ({ s with window := { s.window with
          slots := tableInsert n { slot with state := .ready } s.window.slots } }, true)
    else (s, false)

/-- Evaluate every OPEN slot (R59, R104, R105); the mark says some slot became READY. -/
def evaluateAll (s : State) : State × Bool :=
  let rate := s.grid.rate
  ({ s with window := { s.window with
      slots := s.window.slots.map fun p => (p.1, evaluated rate p.1 s.sources p.2) } },
   s.window.slots.any fun p => becomesReady rate p.1 s.sources p.2)

/-! ## Closing -/

/-- The counter of a close reason (R118). -/
def countClose (r : CloseReason) (c : WindowCounters) : WindowCounters :=
  match r with
  | .complete => { c with closedComplete := bump c.closedComplete }
  | .deadline => { c with closedDeadline := bump c.closedDeadline }
  | .demand => { c with closedDemand := bump c.closedDemand }
  | .pressure => { c with closedPressure := bump c.closedPressure }
  | .overrun => { c with closedOverrun := bump c.closedOverrun }
  | .stop => { c with closedStop := bump c.closedStop }

/-- The close of an unclosed slot (R106). A slot that is not unclosed is passed over (R115). -/
def closeSlot (n : Nat) (reason : CloseReason) (s : State) : State :=
  match s.slot? n with
  | none => s
  | some slot =>
    if slot.unclosed then
      { s with window := { s.window with
        slots :=
          tableInsert n { slot with state := .closed, closeReason := some reason } s.window.slots
        assemblyQueue := s.window.assemblyQueue ++ [n]
        horizon := some n
        counters := countClose reason s.window.counters } }
    else s

/-- Close slots in the order given, each with its reason. -/
def closeAll : List (Nat × CloseReason) → State → State
  | [], s => s
  | (n, r) :: rest, s => closeAll rest (closeSlot n r s)

/-- The unclosed slots with an instant that passes a test, oldest first, to be closed for one reason. -/
def State.toClose (s : State) (reason : CloseReason) (p : Nat → Bool) : List (Nat × CloseReason) :=
  (s.unclosedSlots.filter fun q => p q.1).map fun q => (q.1, reason)

/-- The instants the completion walk closes, from the horizon up: it stops at an OPEN slot and at an
instant without a slot above the cadence mark, and steps over one at or below it (R107). -/
def walkInstants (mark : Option Nat) : Nat → Table Slot → List Nat
  | _, [] => []
  | horizon, (n, slot) :: rest =>
    if n ≤ horizon then walkInstants mark horizon rest
    else
      let reached := n = horizon + 1 || match mark with
        | some m => decide (n ≤ m + 1)
        | none => false
      if slot.state = .ready && reached then n :: walkInstants mark n rest else []

/-- The completion walk: in EARLY mode while RUNNING (R107). -/
def completionWalk (s : State) : State :=
  if s.window.config.mode = .early ∧ s.reporting.opState = .running then
    match s.window.horizon with
    | some h =>
      closeAll ((walkInstants s.time.cadenceMark h s.unclosedSlots).map (·, .complete)) s
    | none => s
  else s

/-- The re-evaluation an entry's departure from ACTIVE asks for, and the walk that follows when it
makes a slot READY (R59, R104, R107). The Assembler is not idle when a take has asked for it. -/
def reevaluateAfterTake (s : State) : State :=
  let p := evaluateAll s
  if p.2 then completionWalk p.1 else p.1

/-- An idle Assembler takes the oldest closed slot; a stall in its pass is then re-evaluated (R113,
R121, R128; log 10). -/
def takeAndReevaluate (s : State) : State :=
  let p := takeIfIdle s
  if p.2 then reevaluateAfterTake p.1 else p.1

/-- What follows the closes of one cause: the completion walk (R107), then the take (log 10). -/
def settle (s : State) : State := takeAndReevaluate (completionWalk s)

/-- The re-evaluation that a request, a description or an amendment asks for (R59, R62, R63). -/
def reevaluate (s : State) : State :=
  let p := evaluateAll s
  if p.2 then settle p.1 else p.1

/-- Evaluate one slot after a placement, and walk if it became READY (R95, R104, R107). -/
def evaluatePlaced (n : Nat) (s : State) : State :=
  let p := evaluateSlot n s
  if p.2 then settle p.1 else p.1

/-! ## Store pressure -/

/-- Pressure holds (R111). -/
def State.pressureHolds (s : State) : Bool :=
  decide (s.window.freeRecords + s.reclaimable < s.window.config.lowWater) &&
    s.unclosedSlots.any fun p => decide (p.1 ≤ s.currentInstant)

/-- The evaluation of store pressure, at most `fuel` pressure closes (R111). -/
def pressureCloses : Nat → State → State
  | 0, s => s
  | fuel + 1, s =>
    if s.pressureHolds then
      match s.unclosedSlots with
      | [] => s
      | (n, _) :: _ => pressureCloses fuel (settle (setFlag .pressure (closeSlot n .pressure s)))
    else s

/-- The evaluation of store pressure after a record allocation (R95, R111): each close leaves one
unclosed slot fewer. -/
def evaluatePressure (s : State) : State := pressureCloses s.unclosedSlots.length s

/-! ## The end of the drain -/

/-- The drain ends when the Assembly Queue is empty and the Assembler is IDLE: the part becomes IDLE and
the STOP's reply is made, at once if the reply list has a place (R161, R170). -/
def drainEnd (s : State) : State :=
  if s.reporting.opState = .draining ∧ s.window.assemblyQueue = [] ∧ s.assembler.current = none then
    let s1 := { s with reporting := { s.reporting with opState := .idle } }
    if s1.command.processor = .awaitingDrain ∧ s1.command.replies.length < Config.replyCapacity then
      transmitChoice (makeStopReply s1)
    else s1
  else s

end Sys2Proof.Machine
end

