-- ==== Sys2Proof/Machine/Clock.lean ====
section
/-! DEFINITION. Local time (R18) and the events derived from it (R22, R28, R29): when each falls due,
the advance of local time to it, and what the part does of itself when no command waits (log 11). -/

namespace Sys2Proof.Machine

open Config (grainsPerSecond maxSecond)

/-! ## When a time-driven event falls due -/

/-- The local time, in grains, of the next missing-PPS check (R22): fraction C + 1 of this second, or of
the next when this second's check has been taken (R26). -/
def TimeRef.nextCheck (t : TimeRef) : Option Nat :=
  if t.checkTaken then
    if t.second < maxSecond then some ((t.second + 1) * grainsPerSecond + t.captureWindow + 1)
    else none
  else some (t.second * grainsPerSecond + t.captureWindow + 1)

/-- The instant of the next cadence event (R28): the first beyond the cadence mark, while RUNNING. -/
def State.nextCadence (s : State) : Option Nat :=
  if s.reporting.opState = .running then s.time.cadenceMark.map (· + 1) else none

/-- The watched slots, oldest first (R29). -/
def State.watchedSlots (s : State) : Table Slot := s.window.slots.filter fun p => p.2.watched

/-- The local time at which the first time-driven event falls due, the stop of R18 at the latest. -/
def State.earliestDue (s : State) : Nat :=
  let withCheck := match s.time.nextCheck with
    | some v => min v lastGrain
    | none => lastGrain
  let withCadence := match s.nextCadence with
    | some n => min (n * s.grid.period) withCheck
    | none => withCheck
  s.watchedSlots.foldl (fun v p => min p.2.deadline v) withCadence

/-- Local time reaches `v`, now or by advancing: it has reached it already, or no time-driven event
falls due before it (log 11). Once stopped it reaches nothing more (R18). -/
def State.reaches (s : State) (v : Nat) : Bool :=
  !s.time.stopped && (decide (v ≤ s.time.grains) || decide (v ≤ s.earliestDue))

/-- Local time advances to `v` where it is not there yet (R18). A new second has its own missing-PPS
check to come (R22). -/
def advanceTo (v : Nat) (s : State) : State :=
  if v ≤ s.time.grains then s
  else
    { s with time := { s.time with
      second := v / grainsPerSecond
      fraction := v % grainsPerSecond
      checkTaken := s.time.checkTaken && decide (v / grainsPerSecond = s.time.second) } }

/-- An event of local time reaching `v`: it is taken when local time reaches `v`, and not otherwise. -/
def whenReached (v : Nat) (f : State → State) (s : State) : State :=
  if s.reaches v then f (advanceTo v s) else s

/-- One grain of local time passes (R18): not while a reset lasts (R172), nor once stopped. -/
def tick (s : State) : State :=
  if s.inReset || s.time.stopped then s else advanceTo (min (s.time.grains + 1) lastGrain) s

/-! ## What falls due of itself -/

/-- The command that executes a request of a code (R167). -/
def requestCommand (code : Byte) : Instr :=
  match code.toNat with
  | 1 => .identify
  | 2 => .readStatus
  | 3 => .configureGrid
  | 4 => .configureRelease
  | 5 => .configureTime
  | 6 => .setSecond
  | 7 => .configureIngest
  | 8 => .readUnknownLog
  | 9 => .declareSource
  | 10 => .amendSource
  | 11 => .retireSource
  | 12 => .suspendSource
  | 13 => .resumeSource
  | 14 => .readSource
  | 15 => .stageView
  | 16 => .cancelView
  | 17 => .readView
  | 18 => .configureReleaseLink
  | 19 => .readReleaseLinks
  | 20 => .start
  | 21 => .stop
  | 22 => .releaseThrough
  | 23 => .readWindow
  | 24 => .resetWindow
  | 25 => .resetDevice
  | 26 => .clearCounters
  | 27 => .clearFaults
  | 28 => .setNotices
  | _ => .unknownRequest

/-- The time-driven event that is due now, if one is. -/
def State.dueByTime (s : State) : Option Instr :=
  let now := s.time.grains
  if s.time.stopped then none
  else if s.time.nextCheck.any (· ≤ now) then some .missingPpsCheck
  else if s.nextCadence.any (fun n => decide (n * s.grid.period ≤ now)) then some .cadenceEvent
  else
    match s.watchedSlots.find? fun p => decide (p.2.deadline ≤ now) with
    | some p => some (.deadlineExpiry p.1)
    | none => if lastGrain ≤ now then some .localTimeStop else none

/-- What the part takes of itself, at once, when no command waits (log 11): the head request of a FREE
processor (R159), the end of an assembly whose views have all been considered (R121), a time-driven
event that is due (R18, R22, R28, R29). -/
def State.dueCommand (s : State) : Option Instr :=
  if s.inReset then none
  else
    match s.command.processor, s.command.requests with
    | .free, r :: _ => some (requestCommand r.code)
    | _, _ =>
      if s.assembler.current.isSome && s.assembler.nextView.isNone then some .assemblyEnd
      else s.dueByTime

end Sys2Proof.Machine
end

