-- ==== Sys2Proof/Machine/Reset.lean ====
section
/-! DEFINITION. The device reset (R172) and its commands: POWER_ON, RESETN_ASSERT, RESET_END. -/

namespace Sys2Proof.Machine

/-- The device reset, in every block (R31, R53, R73, R119, R120, R132, R154, R163, R168, R172). The
pins keep their levels, for those come from outside (R188); so do the waiting commands and the
model's own count of free values. -/
def deviceReset (s : State) : State :=
  { State.reset with pins := s.pins, freeCount := s.freeCount, pending := s.pending }

/-- POWER_ON (R172): a device reset that lasts until power is stable. -/
def execPowerOn (s : State) : Host.Outcome State Fault Refusal :=
  answer { deviceReset s with pins := { s.pins with powerUnstable := true } }

/-- RESETN_ASSERT (R172, R188): a device reset that lasts while the pin stays low. -/
def execResetnAssert (s : State) : Host.Outcome State Fault Refusal :=
  answer { deviceReset s with pins := { s.pins with resetn := true } }

/-- RESET_END (R172, R188): every block begins again from its device-reset values; INHIBIT is taken at
its level, and acts on three empty queues. With no reset in force it changes nothing (log 12). -/
def execResetEnd (s : State) : Host.Outcome State Fault Refusal :=
  answer <|
    if s.inReset then
      { deviceReset s with pins := { s.pins with resetn := false, powerUnstable := false } }
    else s

end Sys2Proof.Machine
end

