-- ==== Sys2Proof/Machine/Time.lean ====
section
/-! DEFINITION. What the Time Reference does at a PPS edge, at the missing-PPS check, and when local time
reaches its last grain (R18 to R24). -/

namespace Sys2Proof.Machine

open Config (grainsPerSecond maxSecond)

/-! ## PPS capture -/

/-- R19: the second whose start an in-window edge marks; none for an outlier. -/
def TimeRef.markedSecond (t : TimeRef) : Option Nat :=
  if t.fraction ≤ t.captureWindow then some t.second
  else if grainsPerSecond - t.captureWindow ≤ t.fraction ∧ t.second < maxSecond then
    some (t.second + 1)
  else none

/-- Local time is set to the start of a second, whose missing-PPS check is then to come (R20, R21, R22),
and it can advance again (R18). DESIGN CHOICE (log 13): the check is to come also where this second's
check was taken before a CONFIGURE_TIME raised C to the fraction or above it, of which R26 says that no
further check is taken in that second; R22, of the snap and the step, is followed. -/
def TimeRef.moveTo (second : Nat) (t : TimeRef) : TimeRef :=
  { t with second := second, fraction := 0, checkTaken := false, stopped := false,
           boundaryMark := true, outlierRun := 0 }

/-- R20: the pending second is applied by an in-window edge that marks `boundary`. -/
def TimeRef.appliesPending (t : TimeRef) (op : OpState) (boundary : Nat) : Bool :=
  match t.pendingSecond with
  | none => false
  | some p => op = .idle || p = boundary

/-- R20, the quality after an in-window edge; UNSET is left only when a pending second is applied. -/
def TimeQuality.afterCapture (applied : Bool) : TimeQuality → TimeQuality
  | .unset => if applied then .locked else .unset
  | .locked | .holdover | .freeRun => .locked

/-- R20, holdover seconds after an in-window edge. -/
def TimeRef.holdoverAfterCapture (t : TimeRef) (applied : Bool) : Nat :=
  match t.quality with
  | .holdover | .freeRun => 0
  | .unset => if applied then 0 else t.holdoverSeconds
  | .locked => t.holdoverSeconds

/-- R20: the time after an in-window edge that marks `boundary`. -/
def TimeRef.captured (t : TimeRef) (op : OpState) (boundary : Nat) : TimeRef :=
  let applied := t.appliesPending op boundary
  { t.moveTo (if applied then t.pendingSecond.getD boundary else boundary) with
    pendingSecond := none
    quality := t.quality.afterCapture applied
    holdoverSeconds := t.holdoverAfterCapture applied }

/-- R24: the cause of the notice of an in-window edge, if it raises one. -/
def TimeRef.captureCause (t : TimeRef) (op : OpState) (boundary : Nat) : Option TimeCause :=
  let applied := t.appliesPending op boundary
  if t.pendingSecond.isSome && !applied then some .pendingDiscarded
  else if t.quality.afterCapture applied ≠ t.quality then some .captured
  else if applied then some .pending
  else none

/-- R20, R24: an in-window edge. -/
def capture (boundary : Nat) (s : State) : State :=
  let op := s.reporting.opState
  let s1 := { s with time := s.time.captured op boundary }
  match s.time.captureCause op boundary with
  | some cause => raiseTime cause s1
  | none => s1

/-- R21: the second a step in IDLE takes. -/
def TimeRef.stepSecond (t : TimeRef) : Nat :=
  match t.pendingSecond with
  | some p => p
  | none => if 3000000 ≤ t.fraction ∧ t.second < maxSecond then t.second + 1 else t.second

/-- R21: the third outlier in IDLE steps the clock onto the edge. -/
def clockStep (s : State) : State :=
  let t := s.time
  raiseTime .stepped
    { s with time :=
      { t.moveTo t.stepSecond with
        pendingSecond := none
        holdoverSeconds := 0
        quality := if t.quality = .unset ∧ t.pendingSecond = none then .unset else .locked } }

/-- The quality enters FREE_RUN, and the fault is set (R21, R23). -/
def enterFreeRun (cause : TimeCause) (s : State) : State :=
  raiseTime cause (setFlag .timeFreeRun
    { s with time := { s.time with quality := .freeRun, holdoverSeconds := 0 } })

/-- R21: the third outlier in RUNNING or DRAINING. -/
def outlierFreeRun (s : State) : State :=
  let s1 := { s with time := { s.time with outlierRun := 0 } }
  match s.time.quality with
  | .locked | .holdover => enterFreeRun .outliers s1
  | .freeRun | .unset => s1

/-- R21: an outlier edge. -/
def outlier (s : State) : State :=
  if s.time.outlierRun + 1 < 3 then
    { s with time := { s.time with outlierRun := s.time.outlierRun + 1 } }
  else if s.reporting.opState = .idle then clockStep s
  else outlierFreeRun s

/-- A PPS rising edge (R19 to R21). -/
def ppsEdge (s : State) : State :=
  match s.time.markedSecond with
  | some boundary => capture boundary s
  | none => outlier s

/-! ## The missing-PPS check -/

/-- R22, R23: what a missing PPS does to the time quality. -/
def missingPps (s : State) : State :=
  match s.time.quality with
  | .unset | .freeRun => s
  | .locked =>
    raiseTime .missing { s with time := { s.time with quality := .holdover, holdoverSeconds := 1 } }
  | .holdover =>
    if s.time.holdoverSeconds < s.time.holdoverLimit then
      { s with time := { s.time with holdoverSeconds := s.time.holdoverSeconds + 1 } }
    else enterFreeRun .holdoverLimit s

/-- R22: the missing-PPS check of the current second. -/
def ppsCheck (s : State) : State :=
  let s1 := { s with time := { s.time with checkTaken := true } }
  if s.time.boundaryMark then { s1 with time := { s1.time with boundaryMark := false } }
  else missingPps s1

/-- Local time reaches fraction C + 1 of a second whose check is to come (R22). -/
def reachCheck (s : State) : State :=
  match s.time.nextCheck with
  | some v => whenReached v ppsCheck s
  | none => s

/-- Local time reaches its last grain and stops (R18). -/
def reachLastGrain (s : State) : State :=
  whenReached lastGrain (fun s => { s with time := { s.time with stopped := true } }) s

end Sys2Proof.Machine
end

