-- ==== Sys2Proof/Machine/WindowEvents.lean ====
section
/-! DEFINITION. What the Release Controller does at the window's events of local time: deadline
expiries (R29, R108, R109) and cadence events (R101, R102). -/

namespace Sys2Proof.Machine

/-- R108: the reason an expiry gives a slot. -/
def expiryReason (mode : ReleaseMode) (slot : Slot) : CloseReason :=
  if mode = .early ∧ slot.state = .ready then .complete else .deadline

/-- R108: an expiry closes its slot with every older unclosed slot, oldest first; then the walk. -/
def expiryCloses (n : Nat) (s : State) : State :=
  settle (closeAll ((s.unclosedSlots.filter fun p => decide (p.1 ≤ n)).map fun p =>
    (p.1, expiryReason s.window.config.mode p.2)) s)

/-- A notice of class OVERDUE waits in the notice queue (R109). -/
def State.overdueWaiting (s : State) : Bool := s.reporting.notices.any fun n => n.cls = .overdue

/-- R109: in DEMAND mode an expiry marks its slot overdue. -/
def markOverdue (n : Nat) (s : State) : State :=
  let s1 := { s with window := { s.window with
    slots := tableModify n (fun slot => { slot with overdue := true }) s.window.slots } }
  let s2 := s1.countWindow fun c => { c with overdueMarks := bump c.overdueMarks }
  if tableFirst s.unclosedSlots = some n ∧ s.overdueWaiting = false then
    raiseNotice .overdue .none n s2
  else s2

/-- The Release Controller takes a deadline expiry (R108, R109). -/
def deadlineExpiry (n : Nat) (s : State) : State :=
  if s.window.config.mode = .demand then markOverdue n s else expiryCloses n s

/-- Local time reaches the deadline of the slot for instant `n`, if it is watched (R29). -/
def reachDeadline (n : Nat) (s : State) : State :=
  match s.slot? n with
  | some slot => if slot.watched then whenReached slot.deadline (deadlineExpiry n) s else s
  | none => s

/-- R29: a slot for `n` that an event has opened, with its deadline at or below local time: its expiry is
delivered at once, and taken after the event (R88, R101), unless the event has closed the slot (R115) or
local time is stopped (R18). -/
def expireOpened (n : Nat) (s : State) : State :=
  match s.slot? n with
  | some slot =>
    if slot.watched && !s.time.stopped && decide (slot.deadline ≤ s.time.grains) then
      deadlineExpiry n s
    else s
  | none => s

/-- R102: a cadence event with no room: every older unclosed slot is closed with OVERRUN, the instant
is skipped, and the walk steps over it (R107). -/
def overrun (n : Nat) (s : State) : State :=
  let s1 := closeAll (s.toClose .overrun fun k => decide (k < n)) s
  let s2 := s1.countWindow fun c => { c with skippedInstants := bump c.skippedInstants }
  settle (setFlag .overrun s2)

/-- R101: the Release Controller takes a cadence event for instant `n`. A slot that it opens at or past
its deadline expires as soon as it opens (R29). -/
def cadence (n : Nat) (s : State) : State :=
  if s.window.horizon.any fun h => decide (n ≤ h) then s
  else if (s.slot? n).isSome then s
  else if roomFor n s.window.slots then
    expireOpened n (openSlot n .cadence s)
  else overrun n s

/-- R28: the cadence event for `n` is delivered, and the cadence mark becomes `n`. -/
def deliverCadence (n : Nat) (s : State) : State :=
  cadence n { s with time := { s.time with cadenceMark := some n } }

/-- Local time reaches the next instant time beyond the cadence mark (R28). -/
def reachCadence (s : State) : State :=
  match s.nextCadence with
  | some n => whenReached (n * s.grid.period) (deliverCadence n) s
  | none => s

end Sys2Proof.Machine
end

