-- ==== Sys2Proof/Machine/Ingest.lean ====
section
/-! DEFINITION. Ingest Links, arbiter, dispatcher and Unknown Source Log (R32 to R53). -/

namespace Sys2Proof.Machine

/-! ## The Unknown Source Log -/

/-- The smallest first-seen second of a log (R48). -/
def oldestSeen : List LogEntry → Nat
  | [] => 0
  | e :: rest => rest.foldl (fun m x => min m x.firstSeen) e.firstSeen

/-- Remove the earliest added entry of a first-seen second (R48). -/
def removeSeen (second : Nat) : List LogEntry → List LogEntry
  | [] => []
  | e :: rest => if e.firstSeen = second then rest else e :: removeSeen second rest

/-- Count a further frame of a logged identifier, saturating at 65,535 (R47). -/
def countLogged (id : Word16) (log : List LogEntry) : List LogEntry :=
  log.map fun e => if e.id = id then { e with count := min (e.count + 1) 65535 } else e

/-- A full log makes room by removing its oldest entry (R48). -/
def logRoom (log : List LogEntry) : List LogEntry :=
  if log.length < Config.logCapacity then log else removeSeen (oldestSeen log) log

/-- A frame of an unknown identifier is counted and recorded (R46 to R48). -/
def recordUnknown (f : IngestFrame) (s : State) : State :=
  let s1 := s.countLink f.link fun c => { c with unknownFrames := bump c.unknownFrames }
  if s1.ingest.log.any fun e => e.id = f.id then
    { s1 with ingest := { s1.ingest with log := countLogged f.id s1.ingest.log } }
  else
    raiseNotice .unknown (.ingest f.link) f.id.toNat
      { s1 with ingest :=
        { s1.ingest with log := logRoom s1.ingest.log ++ [⟨f.id, f.link, f.stampSecond, 1⟩] } }

/-! ## The Ingest Arbiter -/

/-- A link is waiting: its FIFO holds a frame. -/
def State.waiting (s : State) (l : LinkId) : Bool := !(s.link l).fifo.isEmpty

/-- PRIORITY mode (R42): the lowest waiting link at the fairness limit, else the lowest waiting link. -/
def choosePriority (s : State) : Option LinkId :=
  match LinkId.all.find? fun l =>
      s.waiting l && decide (0 < s.ingest.fairness) &&
        decide (s.ingest.fairness ≤ (s.link l).passedOver) with
  | some l => some l
  | none => LinkId.all.find? s.waiting

/-- ROUND_ROBIN mode (R43): the first waiting link in cyclic order after the last-granted one. -/
def chooseRoundRobin (s : State) : Option LinkId := s.ingest.lastGranted.cycleAfter.find? s.waiting

/-- The link the arbiter chooses (R41). -/
def chooseLink (s : State) : Option LinkId :=
  match s.ingest.mode with
  | .priority => choosePriority s
  | .roundRobin => chooseRoundRobin s

/-- The passed-over counts at a grant (R44): the chosen link's becomes 0, every other waiting link's
increases by 1. -/
def passOver (chosen : LinkId) (s : State) (l : LinkId) : State :=
  if l = chosen then s.modifyLink l fun k => { k with passedOver := 0 }
  else if s.waiting l then
    s.modifyLink l fun k => { k with passedOver := min (k.passedOver + 1) Config.passedOverMax }
  else s

/-- The entry of an identifier in the identifier map: every entry that is not UNUSED (R56). -/
def mappedEntry (id : Word16) : Table Entry → Option (Nat × Entry)
  | [] => none
  | (i, e) :: t => if e.state ≠ .unused ∧ e.id = id then some (i, e) else mappedEntry id t

/-- The source index of a known source (R46): a mapped identifier whose entry is not RETIRING. -/
def State.knownSource (s : State) (id : Word16) : Option Nat :=
  match mappedEntry id s.sources with
  | some (i, e) => if e.state = .retiring then none else some i
  | none => none

/-- The head frame of the chosen link is granted (R41, R44) and looked up (R46). -/
def grantTo (l : LinkId) (f : IngestFrame) (rest : List IngestFrame) (s : State) : State :=
  let s1 := LinkId.all.foldl (passOver l) s
  let s2 := s1.modifyLink l fun k =>
    { k with fifo := rest, counters := { k.counters with granted := bump k.counters.granted } }
  let s3 := { s2 with ingest := { s2.ingest with lastGranted := l } }
  match s3.knownSource f.id with
  | some i => { s3 with ingest := { s3.ingest with dispatch := some ⟨f, i⟩ } }
  | none => recordUnknown f s3

/-- Grants while the dispatcher is FREE and a link is waiting (R41): a frame of an unknown identifier
ends its dispatch at once (R45). At most `fuel` grants. -/
def grants : Nat → State → State
  | 0, s => s
  | fuel + 1, s =>
    if s.ingest.dispatch.isSome then s
    else
      match chooseLink s with
      | none => s
      | some l =>
        match (s.link l).fifo with
        | [] => s
        | f :: rest => grants fuel (grantTo l f rest s)

/-- The frames that wait in the four FIFOs: no more grants than these can follow one another. -/
def State.waitingFrames (s : State) : Nat :=
  (s.link .il0).fifo.length + (s.link .il1).fifo.length + (s.link .il2).fifo.length +
  (s.link .il3).fifo.length

/-- The arbiter grants whenever the dispatcher is FREE (R41). -/
def arbitrate (s : State) : State := grants s.waitingFrames s

/-- Dispatch ends: the dispatcher becomes FREE and the arbiter grants at once (R45). -/
def endDispatch (s : State) : State :=
  arbitrate { s with ingest := { s.ingest with dispatch := none } }

/-! ## Reception -/

/-- The acceptance filter (R38). -/
def IngestLink.passes (k : IngestLink) (id : Word16) : Bool :=
  (id ^^^ k.filterMatch) &&& k.filterMask = 0

/-- A frame that passes the filter is offered to the FIFO (R39). -/
def offerFrame (f : IngestFrame) (s : State) : State :=
  if (s.link f.link).fifo.length < Config.fifoCapacity then
    arbitrate (s.modifyLink f.link fun k =>
      { k with fifo := k.fifo ++ [f],
               counters := { k.counters with enqueued := bump k.counters.enqueued } })
  else
    congestion .ingestOverflow (.ingest f.link)
      (s.countLink f.link fun c => { c with overflow := bump c.overflow })

/-- The kind of a FIELD frame (R37, R183). -/
def fieldKind (b : Byte) : Option FieldKind :=
  if b = kindMeasurement then some .measurement
  else if b = kindDescription then some .description
  else none

/-- A frame whose last CRC byte is in: CRC, kind, stamp, filter, FIFO, in this order (R36 to R39). -/
def completeFrame (l : LinkId) (content crc : List Byte) (s : State) : State :=
  if crc ≠ crcBytes content then s.countLink l fun c => { c with crcError := bump c.crcError }
  else
    match fieldKind (content.headD 0) with
    | none => s.countLink l fun c => { c with kindError := bump c.kindError }
    | some kind =>
      let body := content.drop 1
      let id := BitVec.ofNat 16 (fieldAt body 0 2)
      if (s.link l).passes id then
        offerFrame
          { link := l, kind := kind, id := id, body := body, stampSecond := s.time.second,
            stampFraction := s.time.fraction } s
      else s.countLink l fun c => { c with filtered := bump c.filtered }

/-- The least and greatest length an Ingest Link accepts (R35, R183). -/
def ingestLow : Nat := 8
def ingestHigh : Nat := 512

/-- A byte arrives on an Ingest Link (R33 to R36); an OFF link does not look at it. -/
def ingestByte (l : LinkId) (b : Byte) (s : State) : State :=
  if (s.link l).on then
    let r := (s.link l).receiver.take ingestLow ingestHigh b
    let s1 := s.modifyLink l fun k => { k with receiver := r.1 }
    match r.2 with
    | .nothing => s1
    | .discarded n => s1.countLink l fun c => { c with huntBytes := bumpBy n c.huntBytes }
    | .badLength => s1.countLink l fun c => { c with lengthError := bump c.lengthError }
    | .whole content crc => completeFrame l content crc s1
  else s

/-- The last CRC byte of a frame arrives on an Ingest Link (R36). Where the receiver is not one byte
short of a whole frame, no such byte arrives and nothing changes (log 12). -/
def ingestLastByte (l : LinkId) (b : Byte) (s : State) : State :=
  if (s.link l).on && (s.link l).receiver.oneByteShort then ingestByte l b s else s

/-! ## Turning links on and off -/

/-- ABANDONED and HUNT_BYTES of a receiver that is turned OFF (R40). -/
def countTurnOff (r : Receiver) (c : LinkCounters) : LinkCounters :=
  match r with
  | .length _ | .frame _ _ => { c with abandoned := bump c.abandoned }
  | .marker => { c with huntBytes := bump c.huntBytes }
  | .off | .hunt => c

/-- A link is switched (R33, R40). A switch that does not change leaves the link as it is. -/
def IngestLink.switch (on : Bool) (k : IngestLink) : IngestLink :=
  match on, k.on with
  | true, false => { k with on := true, receiver := .hunt }
  | false, true =>
    { k with
      on := false
      receiver := .off
      fifo := []
      passedOver := 0
      counters :=
        let c := countTurnOff k.receiver k.counters
        { c with flushed := bumpBy k.fifo.length c.flushed } }
  | true, true | false, false => k

end Sys2Proof.Machine
end

