-- ==== Sys2Proof/Machine/Placement.lean ====
section
/-! DEFINITION. The placement step (R75 to R96) and the handling of descriptions (R69 to R71). -/

namespace Sys2Proof.Machine

/-! ## The checks -/

/-- The reasons a sample is refused (R76), in check order. -/
inductive SampleRefusal
  | suspendedDrops | wrongLink | notRunning | badShape | badTime | decimated | misaligned
  | duplicate | late | early | noSlot | storeFull
deriving DecidableEq, Repr

/-- Where a sample that passes the timestamp checks lies: its instant, its offset, and its own time in
grains (R4, R5). -/
structure SamplePoint where
  instant : Nat
  offset : Int
  grains : Nat
deriving DecidableEq, Repr

/-- The body length of a shape (R80, R184). -/
def SourceShape.bodyLength (h : SourceShape) : Nat := 18 + 5 * h.phasors + 2 * h.analogs

/-- The second number of a MEASUREMENT body (R184). -/
def bodySecond (b : List Byte) : Nat := fieldAt b 2 4
/-- The fraction of a MEASUREMENT body (R184). -/
def bodyFraction (b : List Byte) : Nat := fieldAt b 6 3
/-- The time quality of a MEASUREMENT body (R184). -/
def bodyQuality (b : List Byte) : Nat := fieldAt b 9 1
/-- The status word of a MEASUREMENT body (R184). -/
def bodyStatus (b : List Byte) : Word16 := BitVec.ofNat 16 (fieldAt b 10 2)

/-- Check 5 and the arithmetic of R4 and R5 (R81), with the grain fraction R7 needs. -/
def samplePoint (rate : Nat) (h : SourceShape) (b : List Byte) : Option (SamplePoint × Nat) :=
  if 15 < bodyQuality b then none
  else
    match toGrains h.timeBase (bodySecond b) (bodyFraction b) with
    | none => none
    | some (s, g) =>
      match nearestInstant rate s g with
      | none => none
      | some (n, d) => some (⟨n, d, s * Config.grainsPerSecond + g⟩, g)

/-- R57: the history marks an instant placed. -/
def Receipt.marked (r : Receipt) (n : Nat) : Bool :=
  match r.newest with
  | none => false
  | some newest => n ≤ newest && r.marks.getLsbD (newest - n)

/-- Check 7 (R83): the slot's contributor list above the horizon, the receipt history at or below it. -/
def isDuplicate (s : State) (i : Nat) (e : Entry) (n : Nat) : Bool :=
  if s.window.horizon.any fun h => decide (n ≤ h) then e.receipt.marked n
  else
    match s.slot? n with
    | some slot => (tableFind i slot.contributors).isSome
    | none => false

/-- Checks 7 to 11 for a sample at instant `n` (R83 to R87). -/
def windowChecks (s : State) (i : Nat) (e : Entry) (n : Nat) : Option SampleRefusal :=
  if isDuplicate s i e n then some .duplicate
  else if s.window.horizon.any fun h => decide (n ≤ h) then some .late
  else if s.currentInstant + s.grid.futureLimit < n then some .early
  else if (s.slot? n).isNone && !roomFor n s.window.slots then some .noSlot
  else if s.window.freeRecords = 0 then some .storeFull
  else none

/-- The eleven checks in their order (R76 to R87): the sample's place, or the reason of its refusal.
DESIGN CHOICE (log 22): DECIMATED or MISALIGNED is decided by R7's computation for every source rate,
also for one below the alignment rate that does not divide it, of which R7's last paragraph says
MISALIGNED. -/
def placementChecks (s : State) (i : Nat) (e : Entry) (f : IngestFrame) :
    Except SampleRefusal SamplePoint :=
  if e.state = .suspended then .error .suspendedDrops
  else if !e.links.get f.link then .error .wrongLink
  else if s.reporting.opState ≠ .running then .error .notRunning
  else if f.body.length ≠ e.shape.bodyLength then .error .badShape
  else
    match samplePoint s.grid.rate e.shape f.body with
    | none => .error .badTime
    | some (p, g) =>
      if e.options.tolerance < p.offset.natAbs then
        if (ownGridOffset e.shape.rate g).natAbs ≤ e.options.tolerance then .error .decimated
        else .error .misaligned
      else
        match windowChecks s i e p.instant with
        | some r => .error r
        | none => .ok p

/-- The counter of a refusal (R76). -/
def countRefusal (r : SampleRefusal) (c : SourceCounters) : SourceCounters :=
  match r with
  | .suspendedDrops => { c with suspendedDrops := bump c.suspendedDrops }
  | .wrongLink => { c with wrongLink := bump c.wrongLink }
  | .notRunning => { c with notRunning := bump c.notRunning }
  | .badShape => { c with badShape := bump c.badShape }
  | .badTime => { c with badTime := bump c.badTime }
  | .decimated => { c with decimated := bump c.decimated }
  | .misaligned => { c with misaligned := bump c.misaligned }
  | .duplicate => { c with duplicate := bump c.duplicate }
  | .late => { c with late := bump c.late }
  | .early => { c with early := bump c.early }
  | .noSlot => { c with noSlot := bump c.noSlot }
  | .storeFull => { c with storeFull := bump c.storeFull }

/-- A sample is refused: one counter of its entry, and for NO_SLOT that of the window (R118), for
STORE_FULL the flag and its notice (R87). -/
def refuseSample (i : Nat) (r : SampleRefusal) (s : State) : State :=
  let s1 := s.countSource i (countRefusal r)
  match r with
  | .noSlot => s1.countWindow fun c => { c with noSlot := bump c.noSlot }
  | .storeFull => congestion .storeExhausted (.source i) s1
  | _ => s1

/-! ## Acceptance -/

/-- DATA_INVALID of a status word (R184). -/
def dataInvalid (status : Word16) : Bool := status.getLsbD 15
/-- SYNC_LOST of a status word (R184). -/
def syncLost (status : Word16) : Bool := status.getLsbD 14

/-- R9: re-referencing is applied. -/
def Entry.reReferences (e : Entry) (status : Word16) (offset : Int) : Bool :=
  e.options.reReference && decide (offset ≠ 0) && !dataInvalid status

/-- Phasor `k` of a body, its angle turned (R184, R10). -/
def bodyPhasor (o : ByteOrder) (b : List Byte) (turn : Int) (k : Nat) : Phasor :=
  { magnitude := BitVec.ofNat 24 (orderedField o b (18 + 5 * k) 3)
    angle := rotate (BitVec.ofNat 16 (orderedField o b (21 + 5 * k) 2)) turn }

/-- The record of an accepted sample (R89, R90). -/
def fillRecord (i : Nat) (e : Entry) (b : List Byte) (p : SamplePoint) : SampleRecord :=
  let h := e.shape
  let status := bodyStatus b
  let deviation : Word16 := BitVec.ofNat 16 (orderedField h.order b 14 2)
  let applied := e.reReferences status p.offset
  let turn : Int := if applied then rotation deviation.toInt p.offset else 0
  { source := i
    instant := p.instant
    offset := p.offset
    quality := bodyQuality b
    status := status
    frequency := deviation
    rocof := BitVec.ofNat 16 (orderedField h.order b 16 2)
    phasors := (List.range h.phasors).map (bodyPhasor h.order b turn)
    analogs := (List.range h.analogs).map fun k =>
      BitVec.ofNat 16 (orderedField h.order b (18 + 5 * h.phasors + 2 * k) 2)
    invalid := dataInvalid status
    poorTime := decide (e.options.qualityLimit < bodyQuality b) || syncLost status
    reReferenced := applied
    unReferenced := decide (p.offset ≠ 0) && !applied }

/-- R57: instant `n` is entered into a receipt history. -/
def Receipt.enter (n : Nat) (r : Receipt) : Receipt :=
  match r.newest with
  | none => { newest := some n, marks := 1 }
  | some newest =>
    if newest < n then
      { newest := some n
        marks := if n - newest < 64 then (r.marks <<< (n - newest)) ||| 1 else 1 }
    else if newest - n < 64 then { r with marks := r.marks ||| ((1 : BitVec 64) <<< (newest - n)) }
    else r

/-- Steps 4 to 6 of the acceptance on the entry (R93, R94). -/
def Entry.accept (n measured : Nat) (e : Entry) : Entry :=
  { e with
    receipt := e.receipt.enter n
    latency := nextLatency e.latency measured
    state := .active
    missCount := 0
    counters := { e.counters with accepted := bump e.counters.accepted } }

/-- Steps 1 to 3 of the acceptance on the window: one record taken, the slot opened if absent, the
record inserted (R88, R91, R92). -/
def insertRecord (i : Nat) (r : SampleRecord) (s : State) : State :=
  let n := r.instant
  let s1 := { s with window := { s.window with freeRecords := s.window.freeRecords - 1 } }
  let s2 := if (s1.slot? n).isSome then s1 else openSlot n .arrival s1
  { s2 with window := { s2.window with
    slots := tableModify n
      (fun slot => { slot with contributors := tableInsert i r slot.contributors })
      s2.window.slots } }

/-- The acceptance actions in their order (R88). -/
def acceptSample (i : Nat) (f : IngestFrame) (p : SamplePoint) (s : State) : State :=
  let e := s.entry i
  let arrival := f.stampSecond * Config.grainsPerSecond + f.stampFraction
  let s1 := insertRecord i (fillRecord i e f.body p) s
  let s2 := s1.setEntry i (e.accept p.instant (measuredLatency arrival p.grains))
  let s3 := if e.state = .stalled then raiseSource i .recovered s2 else s2
  evaluatePressure (evaluatePlaced p.instant s3)

/-! ## The steps -/

/-- The entry still fits the frame (R69). -/
def Entry.fits (e : Entry) (f : IngestFrame) : Bool :=
  e.state ≠ .unused && e.state ≠ .retiring && e.id = f.id

/-- The placement step of the frame in dispatch (R75, R76). -/
def placeSample (d : Dispatch) (s : State) : State :=
  let e := s.entry d.source
  if e.fits d.frame then
    match placementChecks s d.source e d.frame with
    | .error r => refuseSample d.source r s
    | .ok p => acceptSample d.source d.frame p s
  else recordUnknown d.frame s

/-- The instant whose slot the placement of a frame opens, if it opens one (R88, R91). -/
def State.opensSlot (s : State) (d : Dispatch) : Option Nat :=
  let e := s.entry d.source
  if e.fits d.frame then
    match placementChecks s d.source e d.frame with
    | .error _ => none
    | .ok p => if (s.slot? p.instant).isSome then none else some p.instant
  else none

/-- The placement step of the MEASUREMENT in dispatch, whose dispatch ends with it (R75). The expiry of a
slot that it opens at or past its deadline is taken after the step, and the slot closes with the sample
in it (R29, R88). -/
def placementStep (s : State) : State :=
  match s.ingest.dispatch with
  | some d =>
    if d.frame.kind = .measurement then
      let t := endDispatch (placeSample d s)
      match s.opensSlot d with
      | some n => expireOpened n t
      | none => t
    else s
  | none => s

/-- The shape a DESCRIPTION body announces (R185). -/
def describedShape (b : List Byte) : SourceShape :=
  { rate := fieldAt b 3 1, timeBase := fieldAt b 4 3, phasors := fieldAt b 7 1 + 1,
    analogs := fieldAt b 8 1, order := byteOrderOf (fieldAt b 9 1) }

/-- The third check of R70: the description is well formed and of the F0 in force (R70, R185). -/
def descriptionValid (f0 : Nat) (b : List Byte) : Bool :=
  b.length = 10 && fieldAt b 2 1 = f0 && (rateFamily f0).contains (fieldAt b 3 1) &&
  fieldAt b 4 3 ≠ 0 && decide (fieldAt b 7 1 ≤ 15) && decide (fieldAt b 8 1 ≤ 8) &&
  decide (fieldAt b 9 1 ≤ 1)

/-- An entry takes a changed shape (R71). -/
def Entry.reshape (h : SourceShape) (e : Entry) : Entry :=
  { e with
    shape := h
    state := if e.state = .active ∨ e.state = .stalled then .declared else e.state
    missCount := 0
    heldCount := 0 }

/-- An accepted description (R70, R71). -/
def applyDescription (i : Nat) (h : SourceShape) (s : State) : State :=
  let s1 := s.countSource i fun c => { c with descriptions := bump c.descriptions }
  let e := s1.entry i
  if e.shape = h then s1
  else
    let s2 := raiseSource i .shapeChanged ((s1.setEntry i (e.reshape h)).emptyHold i)
    if e.state = .active then reevaluate s2 else s2

/-- The handling of the DESCRIPTION in dispatch: the checks of R70 in their order, then R71. -/
def describe (d : Dispatch) (s : State) : State :=
  let e := s.entry d.source
  let body := d.frame.body
  if e.fits d.frame then
    if !e.links.get d.frame.link then
      s.countSource d.source fun c => { c with wrongLink := bump c.wrongLink }
    else if !e.options.remoteAllowed then
      s.countSource d.source fun c => { c with remoteRefused := bump c.remoteRefused }
    else if descriptionValid s.grid.f0 body then applyDescription d.source (describedShape body) s
    else s.countSource d.source fun c => { c with badDescription := bump c.badDescription }
  else recordUnknown d.frame s

/-- The handling of the DESCRIPTION in dispatch, whose dispatch ends with it (R70). -/
def descriptionHandling (s : State) : State :=
  match s.ingest.dispatch with
  | some d => if d.frame.kind = .description then endDispatch (describe d s) else s
  | none => s

end Sys2Proof.Machine
end

