-- ==== Sys2Proof/Machine/Assembly.lean ====
section
/-! DEFINITION. The end of an assembly (R123). -/

namespace Sys2Proof.Machine

/-- The end of the assembly of the slot for instant `n` (R123): the slot is released, and the Assembler
takes the next head at once, or becomes IDLE, which can end the drain (R170). -/
def endAssembly (n : Nat) (s : State) : State := drainEnd (takeAndReevaluate (releaseSlot n s))

/-- The assembly ends once every view has been considered (R121, R123). -/
def assemblyEnd (s : State) : State :=
  match s.assembler.current, s.assembler.nextView with
  | some n, none => endAssembly n s
  | _, _ => s

end Sys2Proof.Machine
end

