-- ==== Sys2Proof/Machine/ReleaseLinks.lean ====
section
/-! DEFINITION. The Release Links' transmissions and pins (R148, R149). While a reset lasts a pin's level
is kept but not acted on (R188). -/

namespace Sys2Proof.Machine

/-- The end of the transmission of a Release Link's head SET (R148). -/
def transmissionEnd (l : RelId) (s : State) : State :=
  if s.linkState l = .sending then
    lookAtBusy l (s.modifyQueue l.destination ReleaseQueue.sentHead)
  else s

/-- BUSYn is deasserted: a PAUSED link begins the transmission of its head SET (R148). -/
def busyDeassert (l : RelId) (s : State) : State :=
  outOfReset (fun s => if s.linkState l = .paused then lookAtBusy l s else s) (s.setBusy l false)

/-- The level of the INHIBIT pin (R188). -/
def State.setInhibit (s : State) (b : Bool) : State := { s with pins := { s.pins with inhibit := b } }

/-- INHIBIT is asserted: every release queue is cut and discarded at once (R149). -/
def inhibitAssert (s : State) : State := outOfReset inhibitQueues (s.setInhibit true)

end Sys2Proof.Machine
end

