-- ==== Sys2Proof/Machine/CommandLink.lean ====
section
/-! DEFINITION. The Command Link: reception (R156, R157), the end of a transmission (R164), and the
execution of a request, which every request command shares (R159 to R162). -/

namespace Sys2Proof.Machine

/-! ## Reception -/

/-- The COMMAND_OVERFLOW fault (R157). -/
def commandOverflow (s : State) : State := setFlag .commandOverflow s

/-- A REQUEST frame offered for taking (R157). -/
def takeRequest (r : Request) (s : State) : State :=
  if s.command.requests.length < Config.requestCapacity then
    { s with command := { s.command with
      requests := s.command.requests ++ [r]
      counters :=
        { s.command.counters with requestsTaken := bump s.command.counters.requestsTaken } } }
  else if s.command.replies.length < Config.replyCapacity then
    appendReply ⟨r.code, r.tag, .busy, []⟩
      (commandOverflow (s.countCommand fun c =>
        { c with requestsTaken := bump c.requestsTaken, busyReplies := bump c.busyReplies }))
  else commandOverflow (s.countCommand fun c => { c with unanswered := bump c.unanswered })

/-- A frame whose last CRC byte is in: CRC, then kind, then the offer (R156). -/
def completeRequest (content crc : List Byte) (s : State) : State :=
  if crc ≠ crcBytes content then s.countCommand fun c => { c with crcError := bump c.crcError }
  else if content.headD 0 ≠ kindRequest then
    s.countCommand fun c => { c with kindError := bump c.kindError }
  else
    takeRequest { code := (content.drop 1).headD 0, tag := (content.drop 2).headD 0,
                  fields := content.drop 3 } s

/-- The least and greatest length the Command Link accepts (R156, R183). -/
def commandLow : Nat := 3
def commandHigh : Nat := 65535

/-- A byte arrives on the Command Link (R156). -/
def commandByte (b : Byte) (s : State) : State :=
  let r := s.command.receiver.take commandLow commandHigh b
  let s1 := { s with command := { s.command with receiver := r.1 } }
  match r.2 with
  | .nothing => s1
  | .discarded n => s1.countCommand fun c => { c with huntBytes := bumpBy n c.huntBytes }
  | .badLength => s1.countCommand fun c => { c with lengthError := bump c.lengthError }
  | .whole content crc => completeRequest content crc s1

/-- The last CRC byte of a frame arrives on the Command Link (R157). Where the receiver is not one byte
short of a whole frame, no such byte arrives and nothing changes (log 12). -/
def commandLastByte (b : Byte) (s : State) : State :=
  if s.command.receiver.oneByteShort then commandByte b s else s

/-! ## The end of a transmission -/

/-- The frame that leaves the line is the reply to an accepted RESET_DEVICE (R162). -/
def State.resetReplyEnds (s : State) (r : Reply) : Bool :=
  s.command.processor = .awaitingReset && r.code = 25 && r.status = .ok

/-- The count of a reply sent whole (R164). -/
def countReplySent (st : Status) (c : CommandCounters) : CommandCounters :=
  if st = .busy then { c with busySent := bump c.busySent }
  else { c with repliesSent := bump c.repliesSent }

/-- A transmission on the Command Link ends with its last CRC byte, is counted, and the arbiter chooses
(R164); the device reset follows the reply to an accepted RESET_DEVICE (R162). -/
def commandTransmissionEnd (s : State) : State :=
  match s.command.line with
  | some (.reply r) =>
    if s.resetReplyEnds r then deviceReset s
    else
      transmitChoice { s with command := { s.command with
        line := none, counters := countReplySent r.status s.command.counters } }
  | some (.notice _) =>
    transmitChoice { s with command := { s.command with
      line := none
      counters := { s.command.counters with
        noticesSent := bump s.command.counters.noticesSent } } }
  | none =>
    if s.release.commandQueue.sending then
      transmitChoice (s.modifyQueue .cl ReleaseQueue.sentHead)
    else s

/-! ## The execution of a request -/

/-- What executing a request comes to (R159 to R162). -/
inductive Execution
  /-- A check refuses it: the reply carries the status alone. -/
  | refuse (status : Status)
  /-- It is accepted: its effect, and the result fields of its reply. -/
  | accept (s : State) (result : List Byte)
  /-- An accepted STOP: its effect; its reply waits for the drain (R161). -/
  | drain (s : State)
  /-- An accepted RESET_DEVICE: its reply is made, and the reset waits for it to be sent (R162). -/
  | reset
deriving DecidableEq, Repr

/-- The Request Processor in a state (R155). -/
def State.withProcessor (p : Processor) (s : State) : State :=
  { s with command := { s.command with processor := p } }

/-- The reply is made, the request leaves the queue and the processor is FREE again (R159); one draw of
free values is spent (log 3). An idle line then chooses, the reply first (R164, R165). -/
def finishRequest (r : Request) (status : Status) (result : List Byte) (s : State) : State :=
  let s1 := { s with
    freeCount := s.freeCount + 1
    command := { s.command with requests := s.command.requests.drop 1, processor := .free } }
  appendReply ⟨r.code, r.tag, status, result⟩ s1

/-- What the Request Processor does with the outcome of an execution (R159, R161, R162). A STOP whose
reply waits leaves an idle line to the notices its effect has raised (R164). -/
def conclude (r : Request) (s : State) : Execution → State
  | .refuse status => finishRequest r status [] s
  | .accept t result => finishRequest r .ok result t
  | .drain t => transmitChoice (drainEnd (t.withProcessor .awaitingDrain))
  | .reset => appendReply ⟨r.code, r.tag, .ok, []⟩ (s.withProcessor .awaitingReset)

/-- The Request Processor executes the head request when it is FREE; without a place in the reply list
it becomes AWAITING_ROOM (R159). `isCode` says which requests the command executes: with another
request at the head, or none, it is not this command's turn and nothing changes (log 12). -/
def executeHead (isCode : Nat → Bool) (execution : Request → State → Execution) (s : State) : State :=
  match s.command.processor, s.command.requests with
  | .free, r :: _ =>
    if isCode r.code.toNat then
      if s.command.replies.length < Config.replyCapacity then
        conclude r s (execution r (s.withProcessor .executing))
      else s.withProcessor .awaitingRoom
    else s
  | _, _ => s

/-- The command that executes the requests of one code. -/
def runRequest (code : Nat) (execution : Request → State → Execution) (s : State) : State :=
  outOfReset (executeHead (· == code) execution) s

/-- Checks 2 to 4 of R160 in their order: length, state, fields; then the owner. -/
def checks (length state fields : Bool) (owner : Execution) : Execution :=
  if !length then .refuse .badLength
  else if !state then .refuse .wrongState
  else if !fields then .refuse .badField
  else owner

end Sys2Proof.Machine
end

