-- ==== Sys2Proof/Machine/ConfigRequests.lean ====
section
/-! DEFINITION. UNKNOWN_REQUEST, IDENTIFY, and the requests that configure or read the grid, the release
configuration, the Time Reference and the ingest side (codes 1, 3 to 8). -/

namespace Sys2Proof.Machine

open Config (maxSecond)

/-- Codes outside the catalogue (R167). -/
def unknownCode (code : Nat) : Bool := code = 0 || decide (29 ≤ code)

/-- UNKNOWN_REQUEST (R160): a code that is not in the catalogue. -/
def execUnknownRequest (s : State) : Host.Outcome State Fault Refusal :=
  answer (outOfReset (executeHead unknownCode fun _ _ => .refuse .unknownRequest) s)

/-- The result of IDENTIFY (R181): part code, part revision, capacities. -/
def identityBytes : List Byte :=
  be1 48 ++ be1 1 ++ be4 Config.sourceEntries ++ be4 Config.slotCapacity ++
  be4 Config.sampleRecords ++ be4 8 ++ be4 Config.releaseCapacity ++ be4 Config.noticeCapacity ++
  be4 Config.requestCapacity

def identify (r : Request) (s : State) : Execution :=
  checks (r.fields.length = 0) true true (.accept s identityBytes)

/-- IDENTIFY (R181). -/
def execIdentify (s : State) : Host.Outcome State Fault Refusal := answer (runRequest 1 identify s)

/-! ## CONFIGURE_GRID (R2) -/

/-- Every current or staged descriptor (R2, R66). -/
def State.descriptors (s : State) : List Descriptor :=
  ViewId.all.flatMap fun v =>
    (s.view v).current.toList ++ ((s.view v).staged.bind (·.content)).toList

/-- Some entry holds a source (R2). -/
def State.anySource (s : State) : Bool := s.sources.any fun p => p.2.state ≠ .unused

/-- The values in force (R2). -/
def gridBytes (g : Grid) : List Byte := be1 g.f0 ++ be1 g.rate ++ be4 g.period ++ be1 g.futureLimit

def configureGrid (r : Request) (s : State) : Execution :=
  let f0 := fieldAt r.fields 0 1
  let rate := fieldAt r.fields 1 1
  let limit := fieldAt r.fields 2 1
  let c := s.window.config
  let grid : Grid := { f0 := f0, rate := rate, futureLimit := min limit 16 }
  checks (r.fields.length = 3) (s.reporting.opState = .idle)
    ((f0 = 50 || f0 = 60) && (rateFamily f0).contains rate &&
      waitsAllowed c.fixedCode c.capCode rate)
    (if f0 ≠ s.grid.f0 ∧ s.anySource then .refuse .inUse
     else if (f0 ≠ s.grid.f0 ∨ rate ≠ s.grid.rate) ∧ s.window.horizon.isSome then .refuse .inUse
     else if s.descriptors.any fun d => rate % d.divisor ≠ 0 then .refuse .inUse
     else .accept { s with grid := grid } (gridBytes grid))

/-- CONFIGURE_GRID (R2). -/
def execConfigureGrid (s : State) : Host.Outcome State Fault Refusal :=
  answer (runRequest 3 configureGrid s)

/-! ## CONFIGURE_RELEASE (R116) -/

/-- The seven values of the release configuration (R116, R186), without the grain values of the two codes,
which CONFIGURE_RELEASE's reply carries after them (log 8). -/
def releaseConfigBytes (c : ReleaseConfig) : List Byte :=
  be1 c.mode.code ++ be1 c.wait.code ++ be1 c.fixedCode ++ be1 c.capCode ++ be4 c.minWait ++
  be4 c.margin ++ be2 c.lowWater

/-- The release mode of a code that check 4 has passed. -/
def releaseModeOf : Nat → ReleaseMode
  | 0 => .early
  | 1 => .deadline
  | _ => .demand

def configureRelease (r : Request) (s : State) : Execution :=
  let f := r.fields
  let config : ReleaseConfig :=
    { mode := releaseModeOf (fieldAt f 0 1)
      wait := if fieldAt f 1 1 = 0 then .fixed else .adaptive
      fixedCode := fieldAt f 2 1
      capCode := fieldAt f 3 1
      minWait := fieldAt f 4 4
      margin := fieldAt f 8 4
      lowWater := min (fieldAt f 12 2) 32768 }
  checks (f.length = 14) (s.reporting.opState = .idle)
    (decide (fieldAt f 0 1 ≤ 2) && decide (fieldAt f 1 1 ≤ 1) && decide (config.fixedCode ≤ 7) &&
      decide (config.capCode ≤ 7) && decide (config.minWait ≤ waitGrains config.capCode) &&
      decide (config.margin ≤ 6000000) &&
      waitsAllowed config.fixedCode config.capCode s.grid.rate)
    (.accept { s with window := { s.window with config := config } }
      (releaseConfigBytes config ++ be4 (waitGrains config.fixedCode) ++
        be4 (waitGrains config.capCode)))

/-- CONFIGURE_RELEASE (R116). -/
def execConfigureRelease (s : State) : Host.Outcome State Fault Refusal :=
  answer (runRequest 4 configureRelease s)

/-! ## CONFIGURE_TIME (R26) and SET_SECOND (R25) -/

/-- The report of the Time Reference (R26). -/
def timeBytes (n : Nat) (t : TimeRef) : List Byte :=
  be2 t.captureWindow ++ be2 (t.holdoverLimit - 1) ++ be1 t.quality.code ++ be4 t.second ++
  be4 t.fraction ++ maybeBytes n 0 4 t.pendingSecond ++ be4 t.outlierRun ++ be4 t.holdoverSeconds

/-- Both values come into force; the check of the current second is taken at once when lowering C has
put the fraction beyond it and the check has not been taken (R22, R26). -/
def setTimeValues (c h : Nat) (s : State) : State :=
  let s1 := { s with time := { s.time with captureWindow := c, holdoverLimit := h } }
  if c < s.time.fraction ∧ s.time.fraction ≤ s.time.captureWindow ∧ s.time.checkTaken = false then
    ppsCheck s1
  else s1

def configureTime (r : Request) (s : State) : Execution :=
  let c := fieldAt r.fields 0 2
  let h := fieldAt r.fields 2 2 + 1
  let s1 := setTimeValues c h s
  checks (r.fields.length = 4) (s.reporting.opState = .idle)
    (decide (60 ≤ c) && decide (c ≤ 6000) && decide (h ≤ 3600))
    (.accept s1 (timeBytes s.freeCount s1.time))

/-- CONFIGURE_TIME (R26). -/
def execConfigureTime (s : State) : Host.Outcome State Fault Refusal :=
  answer (runRequest 5 configureTime s)

/-- The expected next second (R25). -/
def TimeRef.expectedSecond (t : TimeRef) : Nat :=
  if t.fraction ≤ t.captureWindow ∧ t.boundaryMark = false then t.second else t.second + 1

/-- E in the reply (R25). In the last second E is one more than its four bytes hold, and the manual does
not say what they carry: they are free (log 3). -/
def expectedBytes (n e : Nat) : List Byte := if e ≤ maxSecond then be4 e else absentBytes n 0 4

def setSecond (r : Request) (s : State) : Execution :=
  let second := fieldAt r.fields 0 4
  let e := s.time.expectedSecond
  checks (r.fields.length = 4) true true
    (if s.reporting.opState ≠ .idle ∧ second ≠ e then .refuse .timeConflict
     else
      .accept { s with time := { s.time with pendingSecond := some second } }
        (be4 second ++ expectedBytes s.freeCount e ++ optionByte s.time.pendingSecond.isSome ++
          be1 s.time.quality.code))

/-- SET_SECOND (R25). -/
def execSetSecond (s : State) : Host.Outcome State Fault Refusal :=
  answer (runRequest 6 setSecond s)

/-! ## CONFIGURE_INGEST (R50, R51) and READ_UNKNOWN_LOG (R52) -/

/-- The link counters (R51, in the order of their section). -/
def linkCounterBytes (c : LinkCounters) : List Byte :=
  be4 c.huntBytes ++ be4 c.lengthError ++ be4 c.crcError ++ be4 c.kindError ++ be4 c.filtered ++
  be4 c.enqueued ++ be4 c.overflow ++ be4 c.abandoned ++ be4 c.flushed ++ be4 c.granted ++
  be4 c.unknownFrames

/-- What the reply reports of a link (R51). -/
def linkBytes (k : IngestLink) : List Byte :=
  optionByte k.on ++ be2 k.filterMatch.toNat ++ be2 k.filterMask.toNat ++ be1 k.receiver.code ++
  be4 k.fifo.length ++ be4 k.passedOver ++ linkCounterBytes k.counters

/-- The report of the ingest side (R51). DESIGN CHOICE (log 8): the last-granted link is its number in one
byte; R186 gives a link number no width. -/
def ingestBytes (s : State) : List Byte :=
  LinkId.all.flatMap (fun l => linkBytes (s.link l)) ++ be1 s.ingest.mode.code ++
  be1 s.ingest.fairness ++ be1 s.ingest.lastGranted.index ++ optionByte s.ingest.dispatch.isSome

/-- Where a link's fields begin (R186). -/
def linkOffset (l : LinkId) : Nat := 2 + 5 * l.index

/-- The fields of an APPLY are in range (R50). -/
def applyFieldsValid (f : List Byte) : Bool :=
  LinkId.all.all (fun l => decide (fieldAt f (linkOffset l) 1 ≤ 1)) &&
  decide (fieldAt f 22 1 ≤ 1) && decide (fieldAt f 23 1 ≤ 15)

/-- One link's switch, match and mask come into force (R50, R33, R40). -/
def applyLink (f : List Byte) (s : State) (l : LinkId) : State :=
  s.modifyLink l fun k =>
    { k.switch (fieldAt f (linkOffset l) 1 = 1) with
      filterMatch := BitVec.ofNat 16 (fieldAt f (linkOffset l + 1) 2)
      filterMask := BitVec.ofNat 16 (fieldAt f (linkOffset l + 3) 2) }

/-- An APPLY (R50). -/
def applyIngest (f : List Byte) (s : State) : State :=
  let s1 := LinkId.all.foldl (applyLink f) s
  { s1 with ingest := { s1.ingest with
    mode := if fieldAt f 22 1 = 0 then .priority else .roundRobin
    fairness := fieldAt f 23 1 } }

/-- Zero the counters of all four links (R51). -/
def clearLinkCounters (s : State) : State :=
  { s with links := s.links.map fun k => { k with counters := {} } }

def configureIngest (r : Request) (s : State) : Execution :=
  let f := r.fields
  let apply := fieldAt f 0 1 = 1
  let s1 := if apply then applyIngest f s else s
  checks (f.length = 24) true
    (decide (fieldAt f 0 1 ≤ 1) && decide (fieldAt f 1 1 ≤ 1) && (!apply || applyFieldsValid f))
    (.accept (if fieldAt f 1 1 = 1 then clearLinkCounters s1 else s1) (ingestBytes s1))

/-- CONFIGURE_INGEST (R50, R51). -/
def execConfigureIngest (s : State) : Host.Outcome State Fault Refusal :=
  answer (runRequest 7 configureIngest s)

/-- An entry of the Unknown Source Log (R52), its count, whose least value is 1 (R47), less one (R186,
Counts). DESIGN CHOICE (log 8): its link is the link number in one byte; R186 gives a link number no width. -/
def logEntryBytes (e : LogEntry) : List Byte :=
  be2 e.id.toNat ++ be1 e.link.index ++ be4 e.firstSeen ++ be4 (e.count - 1)

def readUnknownLog (r : Request) (s : State) : Execution :=
  let clear := fieldAt r.fields 0 1
  checks (r.fields.length = 1) true (clear ≤ 1)
    (.accept (if clear = 1 then { s with ingest := { s.ingest with log := [] } } else s)
      (be2 s.ingest.log.length ++ s.ingest.log.flatMap logEntryBytes))

/-- READ_UNKNOWN_LOG (R52). -/
def execReadUnknownLog (s : State) : Host.Outcome State Fault Refusal :=
  answer (runRequest 8 readUnknownLog s)

end Sys2Proof.Machine
end

