-- ==== Sys2Proof/Machine/SourceRequests.lean ====
section
/-! DEFINITION. The source requests (R60 to R68), codes 9 to 14. -/

namespace Sys2Proof.Machine

/-! ## Fields the requests share -/

/-- The eight amendable fields, eleven bytes from an offset (R186, codes 9 and 10). -/
def optionsAt (f : List Byte) (o : Nat) : SourceOptions :=
  { required := fieldAt f o 1 = 1
    holdPolicy := if fieldAt f (o + 1) 1 = 0 then .absent else .hold
    holdLimit := fieldAt f (o + 2) 1
    tolerance := fieldAt f (o + 3) 4
    reReference := fieldAt f (o + 7) 1 = 1
    qualityLimit := fieldAt f (o + 8) 1
    stallThreshold := fieldAt f (o + 9) 1 + 1
    remoteAllowed := fieldAt f (o + 10) 1 = 1 }

/-- The amendable fields are in range (R54, R61, R62). -/
def optionsValid (f : List Byte) (o : Nat) : Bool :=
  decide (fieldAt f o 1 ≤ 1) && decide (fieldAt f (o + 1) 1 ≤ 1) &&
  decide (fieldAt f (o + 3) 4 ≤ 3000000) && decide (fieldAt f (o + 7) 1 ≤ 1) &&
  decide (fieldAt f (o + 8) 1 ≤ 15) && decide (fieldAt f (o + 9) 1 ≤ 254) &&
  decide (fieldAt f (o + 10) 1 ≤ 1)

/-- The identifier a source request names (R60). -/
def requestId (f : List Byte) : Word16 := BitVec.ofNat 16 (fieldAt f 0 2)

/-- A request on the entry its identifier resolves to, else NOT_FOUND (R60). -/
def onSource (f : List Byte) (s : State) (k : Nat → Execution) : Execution :=
  match s.knownSource (requestId f) with
  | some i => k i
  | none => .refuse .notFound

/-! ## DECLARE_SOURCE (R61) -/

/-- The lowest UNUSED entry among the `fuel` entries from index `i` on (R61). -/
def firstUnused (sources : Table Entry) : Nat → Nat → Option Nat
  | 0, _ => none
  | fuel + 1, i =>
    match tableFind i sources with
    | none => some i
    | some e => if e.state = .unused then some i else firstUnused sources fuel (i + 1)

/-- The fields of a declaration are in range (R61). -/
def declarationValid (f0 : Nat) (f : List Byte) : Bool :=
  decide (fieldAt f 0 2 ≠ 0) && decide (fieldAt f 0 2 ≠ 65535) && decide (fieldAt f 2 1 ≠ 0) &&
  decide (fieldAt f 2 1 ≤ 15) && (rateFamily f0).contains (fieldAt f 3 1) &&
  decide (fieldAt f 4 3 ≠ 0) && decide (fieldAt f 7 1 ≤ 15) && decide (fieldAt f 8 1 ≤ 8) &&
  decide (fieldAt f 9 1 ≤ 1) && decide (fieldAt f 10 1 ≤ 1) &&
  (fieldAt f 10 1 = 1 || optionsValid f 11)

/-- The entry a declaration writes (R55, R61). -/
def declaredEntry (f : List Byte) : Entry :=
  { state := .declared
    id := requestId f
    links := linkSetOf (fieldAt f 2 1)
    shape :=
      { rate := fieldAt f 3 1, timeBase := fieldAt f 4 3, phasors := fieldAt f 7 1 + 1,
        analogs := fieldAt f 8 1, order := byteOrderOf (fieldAt f 9 1) }
    options := if fieldAt f 10 1 = 1 then {} else optionsAt f 11
    latency := 0
    receipt := .clear
    missCount := 0
    heldCount := 0
    counters := {} }

/-- An accepted declaration of entry `i` (R61, R49). -/
def declare (f : List Byte) (i : Nat) (s : State) : State :=
  let s1 := (s.setEntry i (declaredEntry f)).emptyHold i
  { s1 with ingest := { s1.ingest with
    log := s1.ingest.log.filter fun e => e.id ≠ requestId f } }

def declareSource (r : Request) (s : State) : Execution :=
  checks (r.fields.length = 22) true (declarationValid s.grid.f0 r.fields)
    (if (mappedEntry (requestId r.fields) s.sources).isSome then .refuse .exists
     else
      match firstUnused s.sources Config.sourceEntries 0 with
      | none => .refuse .tableFull
      | some i => .accept (declare r.fields i s) (be2 i))

/-- DECLARE_SOURCE (R61). -/
def execDeclareSource (s : State) : Host.Outcome State Fault Refusal :=
  answer (runRequest 9 declareSource s)

/-! ## AMEND_SOURCE (R62, R63) -/

/-- The miss count and state under a changed stall threshold (R63). -/
def Entry.rethreshold (t : Nat) (e : Entry) : Entry :=
  match e.state with
  | .active =>
    if t ≤ e.missCount then
      { e with missCount := t, state := .stalled,
               counters := { e.counters with stalls := bump e.counters.stalls } }
    else e
  | .stalled => { e with missCount := t }
  | .suspended => if t < e.missCount then { e with missCount := t } else e
  | .unused | .declared | .retiring => e

/-- The entry after an amendment (R62, R63). -/
def Entry.amended (o : SourceOptions) (e : Entry) : Entry :=
  let e1 := { e with options := o }
  if o.stallThreshold = e.options.stallThreshold then e1 else e1.rethreshold o.stallThreshold

/-- An accepted amendment of entry `i` (R62, R63). -/
def amend (o : SourceOptions) (i : Nat) (s : State) : State :=
  let e := s.entry i
  let e1 := e.amended o
  let s1 := s.setEntry i e1
  if e.state = .active then
    if e1.state = .stalled then reevaluate (raiseSource i .stalled s1)
    else if o.required ≠ e.options.required then reevaluate s1
    else s1
  else s1

def amendSource (r : Request) (s : State) : Execution :=
  checks (r.fields.length = 13) true (optionsValid r.fields 2)
    (onSource r.fields s fun i =>
      let s1 := amend (optionsAt r.fields 2) i s
      .accept s1 (be1 (s1.entry i).state.code ++ be4 (s1.entry i).missCount))

/-- AMEND_SOURCE (R62). -/
def execAmendSource (s : State) : Host.Outcome State Fault Refusal :=
  answer (runRequest 10 amendSource s)

/-! ## RETIRE_SOURCE (R66) -/

/-- A current or staged descriptor names a source index (R66). -/
def State.namedByView (s : State) (i : Nat) : Bool :=
  s.descriptors.any fun d => d.sources.any fun e => e.source = i

/-- A sample of the entry remains in the window (R66). -/
def State.sampleRemains (s : State) (e : Entry) : Bool :=
  match e.receipt.newest, s.windowBase with
  | some newest, some base => decide (base ≤ newest)
  | _, _ => false

/-- An accepted retirement of entry `i` (R66). -/
def retire (i : Nat) (s : State) : State :=
  let e := s.entry i
  let s1 :=
    if s.sampleRemains e then s.setEntry i { e with state := .retiring } else endEntry i s
  if e.state = .active then reevaluate s1 else s1

/-- RETIRE_SOURCE's execution (R66). DESIGN CHOICE (log 8): the resulting state in the reply has the code
of the entry state, 0 for UNUSED and 5 for RETIRING; numbered within R66 alone RETIRING would be 1. -/
def retireSource (r : Request) (s : State) : Execution :=
  checks (r.fields.length = 2) true true
    (onSource r.fields s fun i =>
      if s.namedByView i then .refuse .inUse
      else
        .accept (retire i s)
          (be1 (if s.sampleRemains (s.entry i) then EntryState.retiring else .unused).code))

/-- RETIRE_SOURCE (R66). -/
def execRetireSource (s : State) : Host.Outcome State Fault Refusal :=
  answer (runRequest 11 retireSource s)

/-! ## SUSPEND_SOURCE (R64) and RESUME_SOURCE (R65) -/

/-- An accepted suspension of entry `i` (R64). -/
def suspend (i : Nat) (s : State) : State :=
  let e := s.entry i
  let s1 := s.setEntry i { e with state := .suspended }
  if e.state = .active then reevaluate s1 else s1

def suspendSource (r : Request) (s : State) : Execution :=
  checks (r.fields.length = 2) true true
    (onSource r.fields s fun i =>
      if (s.entry i).state = .suspended then .accept s (optionByte true)
      else .accept (suspend i s) (optionByte false))

/-- SUSPEND_SOURCE (R64). -/
def execSuspendSource (s : State) : Host.Outcome State Fault Refusal :=
  answer (runRequest 12 suspendSource s)

def resumeSource (r : Request) (s : State) : Execution :=
  checks (r.fields.length = 2) true true
    (onSource r.fields s fun i =>
      if (s.entry i).state = .suspended then
        .accept (s.modifyEntry i fun e => { e with state := .declared, missCount := 0 })
          (optionByte false)
      else .accept s (optionByte true))

/-- RESUME_SOURCE (R65). -/
def execResumeSource (s : State) : Host.Outcome State Fault Refusal :=
  answer (runRequest 13 resumeSource s)

/-! ## READ_SOURCE (R68) -/

/-- Every counter of an entry (R72). -/
def sourceCounterBytes (c : SourceCounters) : List Byte :=
  be4 c.accepted ++ be4 c.suspendedDrops ++ be4 c.wrongLink ++ be4 c.notRunning ++
  be4 c.badShape ++ be4 c.badTime ++ be4 c.decimated ++ be4 c.misaligned ++ be4 c.duplicate ++
  be4 c.late ++ be4 c.early ++ be4 c.noSlot ++ be4 c.storeFull ++ be4 c.held ++ be4 c.absent ++
  be4 c.stalls ++ be4 c.remoteRefused ++ be4 c.badDescription ++ be4 c.descriptions

/-- The eleven amendable bytes (R186). -/
def optionBytes (o : SourceOptions) : List Byte :=
  optionByte o.required ++ be1 o.holdPolicy.code ++ be1 o.holdLimit ++ be4 o.tolerance ++
  optionByte o.reReference ++ be1 o.qualityLimit ++ be1 (o.stallThreshold - 1) ++
  optionByte o.remoteAllowed

/-- The 63 marks below the newest placed instant, in 8 bytes (R57, R186). -/
def markBytes (r : Receipt) : List Byte := be8 (r.marks >>> 1).toNat

/-- The report of an entry (R68). -/
def entryBytes (n i : Nat) (e : Entry) (held : Bool) : List Byte :=
  be2 i ++ be2 e.id.toNat ++ be1 (linkSetCode e.links) ++ be1 e.shape.rate ++
  beBytes 3 e.shape.timeBase ++ be1 (e.shape.phasors - 1) ++ be1 e.shape.analogs ++
  be1 e.shape.order.code ++ optionBytes e.options ++ be1 e.state.code ++ be4 e.latency ++
  maybeBytes n 0 8 e.receipt.newest ++ markBytes e.receipt ++ be4 e.missCount ++
  be4 e.heldCount ++ optionByte held ++ sourceCounterBytes e.counters

/-- The entry READ_SOURCE selects: RETIRING entries included, UNUSED ones not (R68). -/
def selectedSource (f : List Byte) (s : State) : Option Nat :=
  let value := fieldAt f 1 2
  if fieldAt f 0 1 = 0 then (mappedEntry (BitVec.ofNat 16 value) s.sources).map (·.1)
  else if (s.entry value).state = .unused then none
  else some value

def readSource (r : Request) (s : State) : Execution :=
  let f := r.fields
  let value := fieldAt f 1 2
  checks (f.length = 4) true
    (decide (fieldAt f 0 1 ≤ 1) && decide (fieldAt f 3 1 ≤ 1) &&
      (if fieldAt f 0 1 = 0 then decide (1 ≤ value) && decide (value ≤ 65534)
       else decide (value ≤ 1023)))
    (match selectedSource f s with
     | none => .refuse .notFound
     | some i =>
      .accept (if fieldAt f 3 1 = 1 then s.countSource i fun _ => {} else s)
        (entryBytes s.freeCount i (s.entry i) (s.hold? i).isSome))

/-- READ_SOURCE (R68). -/
def execReadSource (s : State) : Host.Outcome State Fault Refusal :=
  answer (runRequest 14 readSource s)

end Sys2Proof.Machine
end

