-- ==== Sys2Proof/Machine/ViewRequests.lean ====
section
/-! DEFINITION. The requests on views and Release Links: STAGE_VIEW, CANCEL_VIEW, READ_VIEW (R134 to
R140), CONFIGURE_RELEASE_LINK, READ_RELEASE_LINKS (R152, R153); codes 15 to 19. -/

namespace Sys2Proof.Machine

/-! ## STAGE_VIEW -/

/-- The list count a STAGE_VIEW carries (R186). -/
def listCount (f : List Byte) : Nat := fieldAt f 15 1 + 1

/-- List entry `k` of a STAGE_VIEW (R186). -/
def listEntryAt (f : List Byte) (k : Nat) : ListEntry :=
  { source := fieldAt f (16 + 5 * k) 2
    phasors := BitVec.ofNat 16 (fieldAt f (18 + 5 * k) 2)
    analogs := BitVec.ofNat 8 (fieldAt f (20 + 5 * k) 1) }

/-- The destination of a code that check 4 has passed. -/
def destinationOf : Nat → Destination
  | 0 => .rl0
  | 1 => .rl1
  | _ => .cl

/-- The descriptor a STAGE_VIEW carries, its shift clamped (R16, R133, R135, R186). -/
def descriptorOf (f : List Byte) : Descriptor :=
  { tag := fieldAt f 6 1
    divisor := fieldAt f 7 1
    destination := destinationOf (fieldAt f 8 1)
    completeOnly := fieldAt f 9 1 = 1
    angleForm := if fieldAt f 10 1 = 0 then .bin16 else .cdeg
    magnitudeForm := if fieldAt f 11 1 = 0 then .m24 else .m16
    shift := min (fieldAt f 12 1) 8
    order := byteOrderOf (fieldAt f 13 1)
    includeFrequency := fieldAt f 14 1 = 1
    sources := (List.range (listCount f)).map (listEntryAt f) }

/-- No two items of a list are equal. -/
def allDistinct : List Nat → Bool
  | [] => true
  | n :: rest => !rest.contains n && allDistinct rest

/-- The descriptor fields are in range (R135, R186). -/
def descriptorValid (rate : Nat) (f : List Byte) : Bool :=
  let d := descriptorOf f
  let indices := d.sources.map (·.source)
  decide (d.tag ≠ 0) && decide (d.divisor ≠ 0) && decide (d.divisor ≤ rate) &&
  decide (rate % d.divisor = 0) && decide (fieldAt f 8 1 ≤ 2) && decide (fieldAt f 9 1 ≤ 1) &&
  decide (fieldAt f 10 1 ≤ 1) && decide (fieldAt f 11 1 ≤ 1) && decide (fieldAt f 13 1 ≤ 1) &&
  decide (fieldAt f 14 1 ≤ 1) && indices.all (fun i => decide (i ≤ 1023)) && allDistinct indices

/-- The body is long enough for the list count and has the length it sets (R160, R186). -/
def stageLength (f : List Byte) : Bool :=
  decide (16 ≤ f.length) && f.length = 16 + 5 * listCount f

/-- Every listed source has an entry that is neither UNUSED nor RETIRING (R133, R135). -/
def State.listedKnown (s : State) (d : Descriptor) : Bool :=
  d.sources.all fun e => (s.entry e.source).visited

/-- The request on the view of an index that check 4 has passed (R134). -/
def onView (f : List Byte) (k : ViewId → Execution) : Execution :=
  match ViewId.ofIndex? (fieldAt f 0 1) with
  | some v => k v
  | none => .refuse .badField

def stageView (r : Request) (s : State) : Execution :=
  let f := r.fields
  let retiring := fieldAt f 1 1 = 1
  let second := fieldAt f 2 4
  let d := descriptorOf f
  let content := if retiring then none else some d
  let idle := s.reporting.opState = .idle
  checks (stageLength f) true
    (decide (fieldAt f 0 1 ≤ 7) && decide (fieldAt f 1 1 ≤ 1) &&
      (retiring || descriptorValid s.grid.rate f))
    (onView f fun v =>
      let replaced := (s.view v).staged.isSome
      if retiring ∧ (s.view v).current = none then .refuse .notFound
      else if !retiring && !s.listedKnown d then .refuse .notFound
      else
        let s1 :=
          if idle then s.modifyView v fun w => w.takeEffect content
          else s.modifyView v fun w => { w with staged := some ⟨second, content⟩ }
        .accept s1
          (be1 v.index ++ be1 (if idle then 0 else 1) ++ optionByte replaced ++
            be2 (s1.view v).revision.toNat ++ be4 second ++ be1 d.shift))

/-- STAGE_VIEW (R135 to R137). -/
def execStageView (s : State) : Host.Outcome State Fault Refusal :=
  answer (runRequest 15 stageView s)

/-! ## CANCEL_VIEW and READ_VIEW -/

/-- UNUSED or ACTIVE (R132). -/
def View.stateCode (v : View) : Nat := if v.current.isSome then 1 else 0

def cancelView (r : Request) (s : State) : Execution :=
  checks (r.fields.length = 1) true (decide (fieldAt r.fields 0 1 ≤ 7))
    (onView r.fields fun v =>
      if (s.view v).staged.isSome then
        .accept (s.modifyView v fun w => { w with staged := none })
          (be1 (s.view v).stateCode ++ be2 (s.view v).revision.toNat)
      else .refuse .notFound)

/-- CANCEL_VIEW (R139). -/
def execCancelView (s : State) : Host.Outcome State Fault Refusal :=
  answer (runRequest 16 cancelView s)

/-- A source list entry (R133, R186). -/
def listEntryBytes (e : ListEntry) : List Byte :=
  be2 e.source ++ be2 e.phasors.toNat ++ be1 e.analogs.toNat

/-- A descriptor, in the order of STAGE_VIEW's fields (R186). -/
def descriptorBytes (d : Descriptor) : List Byte :=
  be1 d.tag ++ be1 d.divisor ++ be1 d.destination.code ++ optionByte d.completeOnly ++
  be1 d.angleForm.code ++ be1 d.magnitudeForm.code ++ be1 d.shift ++ be1 d.order.code ++
  optionByte d.includeFrequency ++ be1 (d.sources.length - 1) ++
  d.sources.flatMap listEntryBytes

/-- The value bytes of an absent descriptor, as of one with a list of one entry. DESIGN CHOICE (log 8). -/
def absentDescriptor (n k : Nat) : List Byte :=
  absentBytes n k 9 ++ be1 0 ++ absentBytes n (k + 9) 5

/-- The bytes of a descriptor that may be absent, without the presence byte of R186 (log 8). -/
def maybeDescriptor (n k : Nat) : Option Descriptor → List Byte
  | some d => descriptorBytes d
  | none => absentDescriptor n k

/-- The report of a view (R140). DESIGN CHOICE (log 8): a staged descriptor with the retire mark on holds
no other descriptor field (R133), and R186 does not say what stands in their places; here they are the 15
free bytes of an absent descriptor, with no presence byte of their own, and the effective second and the
retire mark follow. -/
def viewBytes (n : Nat) (v : View) : List Byte :=
  be1 v.stateCode ++ optionByte v.current.isSome ++ maybeDescriptor n 0 v.current ++
  optionByte v.staged.isSome ++
  (match v.staged with
   | some st =>
    maybeDescriptor n 14 st.content ++ be4 st.effectiveSecond ++ optionByte st.content.isNone
   | none => absentDescriptor n 14 ++ absentBytes n 28 5) ++
  be2 v.revision.toNat ++ be4 v.setsBuilt ++ be4 v.skippedIncomplete

/-- A view with its counters zeroed (R140, R182). -/
def View.cleared (v : View) : View := { v with setsBuilt := 0, skippedIncomplete := 0 }

def readView (r : Request) (s : State) : Execution :=
  let f := r.fields
  checks (f.length = 2) true (decide (fieldAt f 0 1 ≤ 7) && decide (fieldAt f 1 1 ≤ 1))
    (onView f fun v =>
      .accept (if fieldAt f 1 1 = 1 then s.modifyView v View.cleared else s)
        (viewBytes s.freeCount (s.view v)))

/-- READ_VIEW (R140). -/
def execReadView (s : State) : Host.Outcome State Fault Refusal :=
  answer (runRequest 17 readView s)

/-! ## CONFIGURE_RELEASE_LINK and READ_RELEASE_LINKS -/

/-- One link's setting: 0 KEEP, 1 ENABLE, 2 DISABLE (R152). -/
def applySetting (l : RelId) (setting : Nat) (s : State) : State :=
  match setting with
  | 0 => s
  | 1 => enableLink l s
  | _ => disableLink l s

/-- Switch and link state of a Release Link: ENABLED is 0, DISABLED 1 (R147, R152, R186). -/
def switchBytes (l : RelId) (s : State) : List Byte :=
  be1 (if s.enabled l then 0 else 1) ++ be1 (s.linkState l).code

def configureReleaseLink (r : Request) (s : State) : Execution :=
  let f := r.fields
  let s1 := applySetting .rl1 (fieldAt f 1 1) (applySetting .rl0 (fieldAt f 0 1) s)
  checks (f.length = 2) true (decide (fieldAt f 0 1 ≤ 2) && decide (fieldAt f 1 1 ≤ 2))
    (.accept s1 (switchBytes .rl0 s1 ++ switchBytes .rl1 s1))

/-- CONFIGURE_RELEASE_LINK (R152). -/
def execConfigureReleaseLink (s : State) : Host.Outcome State Fault Refusal :=
  answer (runRequest 18 configureReleaseLink s)

/-- The SET in transmission of a queue: view tag, second and index (R153). DESIGN CHOICE (log 8): the
index takes one byte, as in the SET header, for R186 gives it no width; and whether a SET is in transmission
is the presence byte of the three. -/
def sendingBytes (n k : Nat) (q : ReleaseQueue) : List Byte :=
  match q.sending, q.sets with
  | true, o :: _ => be1 1 ++ be1 o.tag ++ be4 o.second ++ be1 o.index
  | _, _ => be1 0 ++ absentBytes n k 6

/-- What the reply reports of a Release Link (R153). -/
def releaseLinkBytes (n k : Nat) (l : RelId) (s : State) : List Byte :=
  let q := s.release.queue l.destination
  let c := q.counters
  switchBytes l s ++ optionByte (s.busy l) ++ be4 q.sets.length ++ sendingBytes n k q ++
  be4 c.queued ++ be4 c.disabledDrops ++ be4 c.dropped ++ be4 c.sent ++ be4 c.cut ++
  be4 c.inhibitedDrops ++ be4 c.flushed

/-- What the reply reports of the Command Release Queue (R153). -/
def commandQueueBytes (q : ReleaseQueue) : List Byte :=
  let c := q.counters
  be4 q.sets.length ++ optionByte q.sending ++ be4 c.queued ++ be4 c.dropped ++ be4 c.sent ++
  be4 c.cut ++ be4 c.inhibitedDrops ++ be4 c.flushed

/-- A release queue with its counters zeroed (R153, R182). -/
def ReleaseQueue.cleared (q : ReleaseQueue) : ReleaseQueue := { q with counters := {} }

/-- Zero the counters of the three queues (R153, R182). -/
def clearQueueCounters (s : State) : State :=
  { s with release := { s.release with
    queue0 := s.release.queue0.cleared
    queue1 := s.release.queue1.cleared
    commandQueue := s.release.commandQueue.cleared } }

def readReleaseLinks (r : Request) (s : State) : Execution :=
  let clear := fieldAt r.fields 0 1
  checks (r.fields.length = 1) true (clear ≤ 1)
    (.accept (if clear = 1 then clearQueueCounters s else s)
      (releaseLinkBytes s.freeCount 0 .rl0 s ++ releaseLinkBytes s.freeCount 6 .rl1 s ++
        commandQueueBytes s.release.commandQueue ++ optionByte s.pins.inhibit))

/-- READ_RELEASE_LINKS (R153). -/
def execReadReleaseLinks (s : State) : Host.Outcome State Fault Refusal :=
  answer (runRequest 19 readReleaseLinks s)

end Sys2Proof.Machine
end

