-- ==== Sys2Proof/Machine/ControlRequests.lean ====
section
/-! DEFINITION. The requests on the part as a whole: READ_STATUS (R180), START, STOP (R169, R170),
RELEASE_THROUGH, READ_WINDOW (R110, R117), RESET_WINDOW, RESET_DEVICE (R171, R162), CLEAR_COUNTERS,
CLEAR_FAULTS, SET_NOTICES (R182, R178, R176); codes 2 and 20 to 28. -/

namespace Sys2Proof.Machine

/-! ## READ_STATUS -/

/-- The number of slots in a state (R117, R180). -/
def State.slotsIn (s : State) (st : SlotState) : Nat :=
  (s.window.slots.filter fun p => p.2.state = st).length

/-- The number of slots in each of the four states, in the order of R98. -/
def slotCountBytes (s : State) : List Byte :=
  be4 (s.slotsIn .opened) ++ be4 (s.slotsIn .ready) ++ be4 (s.slotsIn .closed) ++
  be4 (s.slotsIn .assembling)

/-- The Command Link counters (R166). -/
def commandCounterBytes (c : CommandCounters) : List Byte :=
  be4 c.huntBytes ++ be4 c.lengthError ++ be4 c.crcError ++ be4 c.kindError ++
  be4 c.requestsTaken ++ be4 c.busyReplies ++ be4 c.unanswered ++ be4 c.repliesSent ++
  be4 c.busySent ++ be4 c.noticesSent

/-- The report of the part (R180). -/
def statusBytes (s : State) : List Byte :=
  let n := s.freeCount
  be1 s.reporting.opState.code ++ optionByte s.reporting.startMark ++
  flagBytes s.reporting.faults ++ flagBytes s.reporting.alertEnables ++ optionByte s.alertHigh ++
  be1 s.time.quality.code ++ be4 s.time.second ++ maybeBytes n 0 4 s.time.pendingSecond ++
  maybeBytes n 4 8 s.window.horizon ++ maybeBytes n 12 8 s.windowBase ++ slotCountBytes s ++
  be4 s.window.freeRecords ++ be4 s.window.assemblyQueue.length ++
  maybeBytes n 20 8 s.assembler.current ++ be4 s.window.counters.skippedInstants ++
  be4 s.release.queue0.sets.length ++ be4 s.release.queue1.sets.length ++
  be4 s.release.commandQueue.sets.length ++ be4 s.reporting.notices.length ++
  be4 s.reporting.lostNotices ++ be4 s.command.requests.length ++ be4 s.command.replies.length ++
  commandCounterBytes s.command.counters

def readStatus (r : Request) (s : State) : Execution :=
  checks (r.fields.length = 0) true true (.accept s (statusBytes s))

/-- READ_STATUS (R180). -/
def execReadStatus (s : State) : Host.Outcome State Fault Refusal :=
  answer (runRequest 2 readStatus s)

/-! ## START, STOP, RELEASE_THROUGH -/

/-- The horizon START leaves: the current local instant, unless a present one lies above it (R99). -/
def startHorizon (horizon : Option Nat) (now : Nat) : Nat :=
  match horizon with
  | some h => max h now
  | none => now

/-- The effects of an accepted START, together (R28, R169). -/
def startPart (s : State) : State :=
  let now := s.currentInstant
  { s with
    time := { s.time with cadenceMark := some now }
    window := { s.window with horizon := some (startHorizon s.window.horizon now) }
    reporting := { s.reporting with opState := .running, startMark := true } }

def start (r : Request) (s : State) : Execution :=
  checks (r.fields.length = 0) (s.reporting.opState = .idle) true
    (if s.time.quality = .unset then .refuse .noTime
     else
      .accept (startPart s)
        (be8 (startHorizon s.window.horizon s.currentInstant) ++ be4 s.time.second ++
          be1 s.time.quality.code))

/-- START (R169). -/
def execStart (s : State) : Host.Outcome State Fault Refusal := answer (runRequest 20 start s)

/-- The effect of an accepted STOP (R170, R112): DRAINING, the cadence mark absent, every unclosed slot
closed. -/
def stopPart (s : State) : State :=
  let s1 := { s with
    reporting := { s.reporting with opState := .draining }
    time := { s.time with cadenceMark := none } }
  settle (closeAll (s1.toClose .stop fun _ => true) s1)

def stop (r : Request) (s : State) : Execution :=
  checks (r.fields.length = 0) (s.reporting.opState = .running) true (.drain (stopPart s))

/-- STOP (R170, R161). -/
def execStop (s : State) : Host.Outcome State Fault Refusal := answer (runRequest 21 stop s)

/-- The slots a RELEASE_THROUGH up to a bound closes (R110). -/
def State.throughBound (s : State) (b : Nat) : List (Nat × CloseReason) :=
  s.toClose .demand fun k => decide (k ≤ b)

def releaseThrough (r : Request) (s : State) : Execution :=
  let b := min (fieldAt r.fields 0 8) s.currentInstant
  let closes := s.throughBound b
  let s1 := settle (closeAll closes s)
  checks (r.fields.length = 8)
    (s.reporting.opState = .running && s.window.config.mode = .demand) true
    (.accept s1 (be8 b ++ be4 closes.length ++ be8 (s1.window.horizon.getD 0)))

/-- RELEASE_THROUGH (R110). -/
def execReleaseThrough (s : State) : Host.Outcome State Fault Refusal :=
  answer (runRequest 22 releaseThrough s)

/-! ## READ_WINDOW -/

/-- The window counters (R118). -/
def windowCounterBytes (c : WindowCounters) : List Byte :=
  be4 c.openedByCadence ++ be4 c.openedByArrival ++ be4 c.closedComplete ++
  be4 c.closedDeadline ++ be4 c.closedDemand ++ be4 c.closedPressure ++ be4 c.closedOverrun ++
  be4 c.closedStop ++ be4 c.skippedInstants ++ be4 c.overdueMarks ++ be4 c.noSlot

/-- A slot of the slot list (R117); `k` places the free byte of an absent close reason. -/
def slotBytes (n k : Nat) (instant : Nat) (slot : Slot) : List Byte :=
  be8 instant ++ be1 slot.state.code ++ be1 slot.opener.code ++ be8 slot.deadline ++
  be4 slot.contributors.length ++ optionByte slot.overdue ++
  maybeBytes n k 1 (slot.closeReason.map CloseReason.code)

/-- The slot list, in increasing instant order (R117). -/
def slotListBytes (n : Nat) : Nat → Table Slot → List Byte
  | _, [] => []
  | k, (instant, slot) :: rest => slotBytes n k instant slot ++ slotListBytes n (k + 1) rest

/-- The contributor list of the detail instant, or that there is none (R117). DESIGN CHOICE (log 8): the
same zeros where no detail instant is given and where the map holds no slot for it. -/
def detailBytes (slot : Option Slot) : List Byte :=
  match slot with
  | some t => be1 1 ++ be2 t.contributors.length ++ t.contributors.flatMap fun p => be2 p.1
  | none => be1 0 ++ be2 0

/-- The report of the window (R117). -/
def windowBytes (s : State) (detail : Option Nat) : List Byte :=
  let n := s.freeCount
  let largest := lmax s.sources
  maybeBytes n 0 8 s.window.horizon ++ maybeBytes n 8 8 s.windowBase ++ slotCountBytes s ++
  be4 s.window.freeRecords ++ be4 s.reclaimable ++ be4 s.window.assemblyQueue.length ++
  maybeBytes n 16 8 s.assembler.current ++ releaseConfigBytes s.window.config ++ be4 largest ++
  be4 (waitNow s.window.config largest) ++ windowCounterBytes s.window.counters ++
  be2 s.window.slots.length ++ slotListBytes n 24 s.window.slots ++
  detailBytes (detail.bind s.slot?)

def readWindow (r : Request) (s : State) : Execution :=
  let f := r.fields
  let detail := if fieldAt f 1 1 = 1 then some (fieldAt f 2 8) else none
  checks (f.length = 10) true (decide (fieldAt f 0 1 ≤ 1) && decide (fieldAt f 1 1 ≤ 1))
    (.accept (if fieldAt f 0 1 = 1 then s.countWindow fun _ => {} else s)
      (windowBytes s detail))

/-- READ_WINDOW (R117). -/
def execReadWindow (s : State) : Host.Outcome State Fault Refusal :=
  answer (runRequest 23 readWindow s)

/-! ## RESET_WINDOW and RESET_DEVICE -/

/-- An entry after a window reset (R74). -/
def Entry.windowReset (e : Entry) : Entry :=
  match e.state with
  | .unused => e
  | .retiring => e.ended
  | .declared | .suspended => { e with receipt := .clear, missCount := 0, heldCount := 0 }
  | .active | .stalled =>
    { e with state := .declared, receipt := .clear, missCount := 0, heldCount := 0 }

/-- One entry of the window reset. -/
def resetEntry (s : State) (i : Nat) : State := s.modifyEntry i Entry.windowReset

/-- The window reset, in every block (R171: R119, R74, R120, R154). -/
def windowReset (s : State) : State :=
  let s1 := s.sourceIndices.foldl resetEntry s
  flushQueues
    { s1 with
      window := { s1.window with
        slots := [], horizon := none, freeRecords := Config.sampleRecords, assemblyQueue := [] }
      assembler := .reset }

def resetWindow (r : Request) (s : State) : Execution :=
  checks (r.fields.length = 0) (s.reporting.opState = .idle) true (.accept (windowReset s) [])

/-- RESET_WINDOW (R171). -/
def execResetWindow (s : State) : Host.Outcome State Fault Refusal :=
  answer (runRequest 24 resetWindow s)

def resetDevice (r : Request) (_s : State) : Execution :=
  checks (r.fields.length = 0) true true .reset

/-- RESET_DEVICE (R162, R172). -/
def execResetDevice (s : State) : Host.Outcome State Fault Refusal :=
  answer (runRequest 25 resetDevice s)

/-! ## CLEAR_COUNTERS, CLEAR_FAULTS, SET_NOTICES -/

/-- One entry's counters zeroed. -/
def clearEntry (s : State) (i : Nat) : State := s.countSource i fun _ => {}

/-- Every counter that R182 lists is zeroed. -/
def zeroCounters (s : State) : State :=
  let s1 := clearQueueCounters (clearLinkCounters (s.sourceIndices.foldl clearEntry s))
  { (s1.countWindow fun _ => {}).countCommand (fun _ => {}) with
    views := s1.views.map View.cleared
    reporting := { s1.reporting with lostNotices := 0 } }

def clearCounters (r : Request) (s : State) : Execution :=
  checks (r.fields.length = 0) true true (.accept (zeroCounters s) [])

/-- CLEAR_COUNTERS (R182). -/
def execClearCounters (s : State) : Host.Outcome State Fault Refusal :=
  answer (runRequest 26 clearCounters s)

/-- Eight mark bytes, from an offset, in the fault flag order (R186). -/
def flagSetAt (f : List Byte) (o : Nat) : FlagSet :=
  ⟨fieldAt f o 1 = 1, fieldAt f (o + 1) 1 = 1, fieldAt f (o + 2) 1 = 1, fieldAt f (o + 3) 1 = 1,
   fieldAt f (o + 4) 1 = 1, fieldAt f (o + 5) 1 = 1, fieldAt f (o + 6) 1 = 1,
   fieldAt f (o + 7) 1 = 1⟩

/-- Eight mark bytes are each off or on. -/
def flagSetValid (f : List Byte) (o : Nat) : Bool :=
  (List.range 8).all fun k => decide (fieldAt f (o + k) 1 ≤ 1)

def clearFaults (r : Request) (s : State) : Execution :=
  let after := s.reporting.faults.clearMarked (flagSetAt r.fields 0)
  checks (r.fields.length = 8) true (flagSetValid r.fields 0)
    (.accept { s with reporting := { s.reporting with faults := after } }
      (flagBytes s.reporting.faults ++ flagBytes after))

/-- CLEAR_FAULTS (R178). -/
def execClearFaults (s : State) : Host.Outcome State Fault Refusal :=
  answer (runRequest 27 clearFaults s)

/-- Mask and priority of a class, from an offset (R186). -/
def classSettingAt (f : List Byte) (o : Nat) : ClassSetting :=
  { masked := fieldAt f o 1 = 1, priority := fieldAt f (o + 1) 1 }

/-- The settings a SET_NOTICES carries, in the class order of R186. -/
def classesAt (f : List Byte) : PerClass ClassSetting :=
  ⟨classSettingAt f 0, classSettingAt f 2, classSettingAt f 4, classSettingAt f 6,
   classSettingAt f 8, classSettingAt f 10⟩

/-- The masks and priorities are in range (R176). -/
def classesValid (f : List Byte) : Bool :=
  (List.range 6).all fun k =>
    decide (fieldAt f (2 * k) 1 ≤ 1) && decide (fieldAt f (2 * k + 1) 1 ≤ 3)

/-- Mask and priority of a class (R186). -/
def classBytes (c : ClassSetting) : List Byte := optionByte c.masked ++ be1 c.priority

/-- The settings in force (R176). DESIGN CHOICE (log 8): they stand in the order R186 gives the request,
mask then priority for each class; R176 lists the masks before the priorities. -/
def settingBytes (r : Reporting) : List Byte :=
  classBytes r.classes.time ++ classBytes r.classes.source ++ classBytes r.classes.unknown ++
  classBytes r.classes.view ++ classBytes r.classes.congestion ++ classBytes r.classes.overdue ++
  flagBytes r.alertEnables

def setNotices (r : Request) (s : State) : Execution :=
  let f := r.fields
  let reporting :=
    { s.reporting with classes := classesAt f, alertEnables := flagSetAt f 12 }
  checks (f.length = 20) true (classesValid f && flagSetValid f 12)
    (.accept { s with reporting := reporting }
      (settingBytes reporting ++ be4 reporting.notices.length ++ be4 reporting.lostNotices))

/-- SET_NOTICES (R176). -/
def execSetNotices (s : State) : Host.Outcome State Fault Refusal :=
  answer (runRequest 28 setNotices s)

end Sys2Proof.Machine
end

