-- ==== Sys2Proof/Machine/Events.lean ====
section
/-! DEFINITION. The execution of requests at once (R159), and the commands that are not requests nor
resets: each finds the requests that were due executed before it (log 15). -/

namespace Sys2Proof.Machine

/-! ## At once -/

/-- The execution of a request, by its code (R167). -/
def executionOf (r : Request) (s : State) : Execution :=
  match r.code.toNat with
  | 1 => identify r s
  | 2 => readStatus r s
  | 3 => configureGrid r s
  | 4 => configureRelease r s
  | 5 => configureTime r s
  | 6 => setSecond r s
  | 7 => configureIngest r s
  | 8 => readUnknownLog r s
  | 9 => declareSource r s
  | 10 => amendSource r s
  | 11 => retireSource r s
  | 12 => suspendSource r s
  | 13 => resumeSource r s
  | 14 => readSource r s
  | 15 => stageView r s
  | 16 => cancelView r s
  | 17 => readView r s
  | 18 => configureReleaseLink r s
  | 19 => readReleaseLinks r s
  | 20 => start r s
  | 21 => stop r s
  | 22 => releaseThrough r s
  | 23 => readWindow r s
  | 24 => resetWindow r s
  | 25 => resetDevice r s
  | 26 => clearCounters r s
  | 27 => clearFaults r s
  | 28 => setNotices r s
  | _ => .refuse .unknownRequest

/-- A request is due to be executed: the part is out of reset, the processor is FREE and a request is at
the head of the queue (R159). -/
def State.requestDue (s : State) : Bool :=
  !s.inReset && s.command.processor = .free && !s.command.requests.isEmpty

/-- Execute the head request while one is due (R159), at most `fuel` requests. -/
def executeDue : Nat → State → State
  | 0, s => s
  | fuel + 1, s =>
    if s.requestDue then executeDue fuel (executeHead (fun _ => true) executionOf s) else s

/-- The state in which an event finds the part: every request that was due has been executed, for the
Request Processor executes at once (R159). Each execution leaves one request fewer, or the processor
not FREE. -/
def State.atOnce (s : State) : State := executeDue s.command.requests.length s

/-- An event of a part that is out of reset. -/
def event (f : State → State) (s : State) : Host.Outcome State Fault Refusal :=
  answer (outOfReset f s.atOnce)

/-! ## Time -/

/-- The time-driven events whose time local time has reached, and which have not been taken: the
missing-PPS check (R22), the cadence event (R28; a correction of local time crosses one instant time at
most), and the expiry of each watched slot, oldest first (R29). DESIGN CHOICE (log 11): this order. -/
def State.reachedEvents (s : State) : List (State → State) :=
  let now := s.time.grains
  (if s.time.nextCheck.any (· ≤ now) then [reachCheck] else []) ++
  (if s.nextCadence.any fun n => decide (n * s.grid.period ≤ now) then [reachCadence] else []) ++
  (s.watchedSlots.filter fun p => decide (p.2.deadline ≤ now)).map fun p => reachDeadline p.1

/-- What local time has reached is delivered (R22, R28, R29), each event taken in turn. -/
def deliverReached (s : State) : State :=
  s.atOnce.reachedEvents.foldl (fun t f => outOfReset f t.atOnce) s.atOnce

/-- PPS_EDGE (R19). The edge can move local time back; what local time has reached before the edge is
delivered, and is not reached again (R28, R29; log 11). -/
def execPpsEdge (s : State) : Host.Outcome State Fault Refusal := event ppsEdge (deliverReached s)

/-- MISSING_PPS_CHECK (R22). -/
def execMissingPpsCheck (s : State) : Host.Outcome State Fault Refusal := event reachCheck s

/-- LOCAL_TIME_STOP (R18). -/
def execLocalTimeStop (s : State) : Host.Outcome State Fault Refusal := event reachLastGrain s

/-- CADENCE_EVENT (R28, R101). -/
def execCadenceEvent (s : State) : Host.Outcome State Fault Refusal := event reachCadence s

/-- DEADLINE_EXPIRY (R29, R108) of the slot for instant `n`. -/
def execDeadlineExpiry (n : Nat) (s : State) : Host.Outcome State Fault Refusal :=
  event (reachDeadline n) s

/-! ## Ingest, placement, descriptions -/

/-- INGEST_BYTE (R33 to R35). The byte that is the last of a frame completes it, as INGEST_FRAME names
it (log 14). -/
def execIngestByte (l : LinkId) (b : Byte) (s : State) : Host.Outcome State Fault Refusal :=
  event (ingestByte l b) s

/-- INGEST_FRAME (R36). -/
def execIngestFrame (l : LinkId) (b : Byte) (s : State) : Host.Outcome State Fault Refusal :=
  event (ingestLastByte l b) s

/-- PLACEMENT_STEP (R75). -/
def execPlacementStep (s : State) : Host.Outcome State Fault Refusal := event placementStep s

/-- DESCRIPTION_HANDLING (R70). -/
def execDescriptionHandling (s : State) : Host.Outcome State Fault Refusal :=
  event descriptionHandling s

/-! ## Assembly, Release Links and pins -/

/-- SET_HANDOVER (R144). With no SET being built nothing changes (log 12). -/
def execSetHandover (s : State) : Host.Outcome State Fault Refusal := event handOverSet s

/-- ASSEMBLY_END (R123). -/
def execAssemblyEnd (s : State) : Host.Outcome State Fault Refusal := event assemblyEnd s

/-- TRANSMISSION_END (R148). On a link that is not SENDING nothing changes (log 12). -/
def execTransmissionEnd (l : RelId) (s : State) : Host.Outcome State Fault Refusal :=
  event (transmissionEnd l) s

/-- BUSY_ASSERT (R148): the level is read the next time the link looks between SETs. -/
def execBusyAssert (l : RelId) (s : State) : Host.Outcome State Fault Refusal :=
  answer (s.atOnce.setBusy l true)

/-- BUSY_DEASSERT (R148). -/
def execBusyDeassert (l : RelId) (s : State) : Host.Outcome State Fault Refusal :=
  answer (busyDeassert l s.atOnce)

/-- INHIBIT_ASSERT (R149). -/
def execInhibitAssert (s : State) : Host.Outcome State Fault Refusal :=
  answer (inhibitAssert s.atOnce)

/-- INHIBIT_DEASSERT (R149): enabled links become IDLE with empty queues. -/
def execInhibitDeassert (s : State) : Host.Outcome State Fault Refusal :=
  answer (s.atOnce.setInhibit false)

/-! ## The Command Link -/

/-- CL_BYTE (R156). The byte that is the last of a frame completes it, as REQUEST_FRAME names it
(log 14). -/
def execClByte (b : Byte) (s : State) : Host.Outcome State Fault Refusal := event (commandByte b) s

/-- REQUEST_FRAME (R157). -/
def execRequestFrame (b : Byte) (s : State) : Host.Outcome State Fault Refusal :=
  event (commandLastByte b) s

/-- CL_TRANSMISSION_END (R164). On an idle line nothing changes (log 12). -/
def execClTransmissionEnd (s : State) : Host.Outcome State Fault Refusal :=
  event commandTransmissionEnd s

end Sys2Proof.Machine
end

