-- ==== Sys2Proof/Machine/Dispatch.lean ====
section
/-! DEFINITION. The meaning of each command, one arm per constructor of Instr. -/

namespace Sys2Proof.Machine

def exec (i : Instr) (s : State) : Host.Outcome State Fault Refusal :=
  match i with
  | .powerOn => Sys2Proof.Machine.execPowerOn s
  | .resetnAssert => Sys2Proof.Machine.execResetnAssert s
  | .resetEnd => Sys2Proof.Machine.execResetEnd s
  | .ppsEdge => Sys2Proof.Machine.execPpsEdge s
  | .missingPpsCheck => Sys2Proof.Machine.execMissingPpsCheck s
  | .localTimeStop => Sys2Proof.Machine.execLocalTimeStop s
  | .cadenceEvent => Sys2Proof.Machine.execCadenceEvent s
  | .deadlineExpiry instant => Sys2Proof.Machine.execDeadlineExpiry instant s
  | .ingestByte link byte => Sys2Proof.Machine.execIngestByte link byte s
  | .ingestFrame link byte => Sys2Proof.Machine.execIngestFrame link byte s
  | .placementStep => Sys2Proof.Machine.execPlacementStep s
  | .descriptionHandling => Sys2Proof.Machine.execDescriptionHandling s
  | .setHandover => Sys2Proof.Machine.execSetHandover s
  | .assemblyEnd => Sys2Proof.Machine.execAssemblyEnd s
  | .transmissionEnd link => Sys2Proof.Machine.execTransmissionEnd link s
  | .busyAssert link => Sys2Proof.Machine.execBusyAssert link s
  | .busyDeassert link => Sys2Proof.Machine.execBusyDeassert link s
  | .inhibitAssert => Sys2Proof.Machine.execInhibitAssert s
  | .inhibitDeassert => Sys2Proof.Machine.execInhibitDeassert s
  | .clByte byte => Sys2Proof.Machine.execClByte byte s
  | .requestFrame byte => Sys2Proof.Machine.execRequestFrame byte s
  | .clTransmissionEnd => Sys2Proof.Machine.execClTransmissionEnd s
  | .unknownRequest => Sys2Proof.Machine.execUnknownRequest s
  | .identify => Sys2Proof.Machine.execIdentify s
  | .readStatus => Sys2Proof.Machine.execReadStatus s
  | .configureGrid => Sys2Proof.Machine.execConfigureGrid s
  | .configureRelease => Sys2Proof.Machine.execConfigureRelease s
  | .configureTime => Sys2Proof.Machine.execConfigureTime s
  | .setSecond => Sys2Proof.Machine.execSetSecond s
  | .configureIngest => Sys2Proof.Machine.execConfigureIngest s
  | .readUnknownLog => Sys2Proof.Machine.execReadUnknownLog s
  | .declareSource => Sys2Proof.Machine.execDeclareSource s
  | .amendSource => Sys2Proof.Machine.execAmendSource s
  | .retireSource => Sys2Proof.Machine.execRetireSource s
  | .suspendSource => Sys2Proof.Machine.execSuspendSource s
  | .resumeSource => Sys2Proof.Machine.execResumeSource s
  | .readSource => Sys2Proof.Machine.execReadSource s
  | .stageView => Sys2Proof.Machine.execStageView s
  | .cancelView => Sys2Proof.Machine.execCancelView s
  | .readView => Sys2Proof.Machine.execReadView s
  | .configureReleaseLink => Sys2Proof.Machine.execConfigureReleaseLink s
  | .readReleaseLinks => Sys2Proof.Machine.execReadReleaseLinks s
  | .start => Sys2Proof.Machine.execStart s
  | .stop => Sys2Proof.Machine.execStop s
  | .releaseThrough => Sys2Proof.Machine.execReleaseThrough s
  | .readWindow => Sys2Proof.Machine.execReadWindow s
  | .resetWindow => Sys2Proof.Machine.execResetWindow s
  | .resetDevice => Sys2Proof.Machine.execResetDevice s
  | .clearCounters => Sys2Proof.Machine.execClearCounters s
  | .clearFaults => Sys2Proof.Machine.execClearFaults s
  | .setNotices => Sys2Proof.Machine.execSetNotices s

end Sys2Proof.Machine
end

