-- ==== Sys2Proof/Safety.lean ====
section
/-! DEFINITION. What a safe run is, in the terms the statements use: every queue within its capacity, no
sample record lost or made, the clock in its ranges; and the conditions under which a command acts. -/

namespace Sys2Proof.Machine

/-- Keys strictly rising: the one form of a table. -/
abbrev tableSorted {α : Type} (t : Table α) : Prop := (t.map (·.1)).Pairwise (· < ·)

/-- An Ingest Link's FIFO and passed-over count are within their ranges (R32, R39). -/
abbrev IngestLink.bounded (k : IngestLink) : Prop :=
  k.fifo.length ≤ Config.fifoCapacity ∧ k.passedOver ≤ Config.passedOverMax

/-- A release queue is within its capacity (R145). -/
abbrev ReleaseQueue.bounded (q : ReleaseQueue) : Prop := q.sets.length ≤ Config.releaseCapacity

/-- Every queue of the part is within its capacity (R32, R47, R97, R113, R145, R155, R174). What bounds
the Assembly Queue stands beside it: its entries are different instants, each of a CLOSED slot of the
slot map, and the slot in assembly is an ASSEMBLING one (R98, R113, R121). -/
structure State.Bounded (s : State) : Prop where
  il0 : s.links.il0.bounded
  il1 : s.links.il1.bounded
  il2 : s.links.il2.bounded
  il3 : s.links.il3.bounded
  log : s.ingest.log.length ≤ Config.logCapacity
  slots : s.window.slots.length ≤ Config.slotCapacity
  assembly : s.window.assemblyQueue.length ≤ Config.slotCapacity
  distinct : s.window.assemblyQueue.Nodup
  closed : ∀ n ∈ s.window.assemblyQueue, ∃ slot, s.slot? n = some slot ∧ slot.state = .closed
  assembling : ∀ n, s.assembler.current = some n →
    ∃ slot, s.slot? n = some slot ∧ slot.state = .assembling
  queue0 : s.release.queue0.bounded
  queue1 : s.release.queue1.bounded
  commandQueue : s.release.commandQueue.bounded
  requests : s.command.requests.length ≤ Config.requestCapacity
  replies : s.command.replies.length ≤ Config.replyCapacity
  notices : s.reporting.notices.length ≤ Config.noticeCapacity

/-- The slot map has one slot per instant, and the free records with those attached to slots are all the
records there are (R97, R100). -/
structure State.Conserved (s : State) : Prop where
  sorted : tableSorted s.window.slots
  total : s.window.freeRecords + attachedRecords s.window.slots = Config.sampleRecords

/-- The items of the Time Reference are within the ranges of R17. -/
structure State.Clocked (s : State) : Prop where
  second : s.time.second ≤ Config.maxSecond
  fraction : s.time.fraction < Config.grainsPerSecond
  pending : ∀ p, s.time.pendingSecond = some p → p ≤ Config.maxSecond
  outlierRun : s.time.outlierRun ≤ 2
  holdoverSeconds : s.time.holdoverSeconds ≤ 3600
  captureLow : 60 ≤ s.time.captureWindow
  captureHigh : s.time.captureWindow ≤ 6000
  limitLow : 1 ≤ s.time.holdoverLimit
  limitHigh : s.time.holdoverLimit ≤ 3600

/-- What a run keeps at every step. -/
structure State.Safe (s : State) : Prop where
  bounded : s.Bounded
  conserved : s.Conserved
  clocked : s.Clocked

/-- The part is out of reset and no request is due (R159): every event finds it so, once the requests
that were due have been executed (log 15). -/
abbrev State.AtRest (s : State) : Prop := s.inReset = false ∧ s.requestDue = false

/-- The Request Processor is about to execute request `r`, of the given code, with `rest` behind it: it
is FREE, the request is at the head, and the reply list has a place (R159). -/
structure State.Executes (s : State) (code : Nat) (r : Request) (rest : List Request) : Prop where
  outOfReset : s.inReset = false
  free : s.command.processor = .free
  head : s.command.requests = r :: rest
  code : r.code.toNat = code
  room : s.command.replies.length < Config.replyCapacity

/-- The placement step of a sample that has passed the first five checks: of the frame in dispatch, which
fits entry `e` of index `i`, at instant `n` with offset `δ`, from grain fraction `g` of second `s'`. -/
structure State.Places (s : State) (d : Dispatch) (e : Entry) (n : Nat) (δ : Int) (s' g : Nat) :
    Prop where
  atRest : s.AtRest
  inDispatch : s.ingest.dispatch = some d
  kind : d.frame.kind = .measurement
  entry : e = s.entry d.source
  used : e.state ≠ .unused
  notRetiring : e.state ≠ .retiring
  id : e.id = d.frame.id
  notSuspended : e.state ≠ .suspended
  link : e.links.get d.frame.link = true
  running : s.reporting.opState = .running
  length : d.frame.body.length = 18 + 5 * e.shape.phasors + 2 * e.shape.analogs
  quality : fieldAt d.frame.body 9 1 ≤ 15
  grains : toGrains e.shape.timeBase (fieldAt d.frame.body 2 4) (fieldAt d.frame.body 6 3) =
    some (s', g)
  instant : nearestInstant s.grid.rate s' g = some (n, δ)

/-! ## What a body carries, as a host reads it -/

/-- A big-endian field of a body: its width in bytes and its value, or none where the bytes are free (log 3). -/
abbrev WireField := Nat × Option Nat

/-- A body read from its first byte on carries these fields and nothing after them. A value wider than
its field shows its low bytes. -/
def carries : List WireField → List Byte → Prop
  | [], b => b = []
  | (w, v) :: rest, b =>
    w ≤ b.length ∧ (∀ x, v = some x → beNat (b.take w) = x % 256 ^ w) ∧ carries rest (b.drop w)

/-- Fields of one width. -/
def fieldsOf (w : Nat) (values : List Nat) : List WireField := values.map fun v => (w, some v)

/-- A value that may be absent (R186): a presence byte, then its bytes, free when it is absent. -/
def maybeField (w : Nat) : Option Nat → List WireField
  | some v => [(1, some 1), (w, some v)]
  | none => [(1, some 0), (w, none)]

/-- An option of off and on, or a mark (R186). -/
def flagField (b : Bool) : WireField := (1, some (if b then 1 else 0))

/-! ## Runs of commands -/

/-- The request rows, in the order of their codes from 1 on (R167). -/
def requestRows : List Instr :=
  [.identify, .readStatus, .configureGrid, .configureRelease, .configureTime, .setSecond,
   .configureIngest, .readUnknownLog, .declareSource, .amendSource, .retireSource, .suspendSource,
   .resumeSource, .readSource, .stageView, .cancelView, .readView, .configureReleaseLink,
   .readReleaseLinks, .start, .stop, .releaseThrough, .readWindow, .resetWindow, .resetDevice,
   .clearCounters, .clearFaults, .setNotices]

/-- A receiver fed with bytes: its state after them, and what they brought about, in order (R34 to R36). -/
def Receiver.feed (low high : Nat) : Receiver → List Byte → Receiver × List Received
  | r, [] => (r, [])
  | r, b :: rest =>
    let p := r.take low high b
    let q := Receiver.feed low high p.1 rest
    (q.1, if p.2 = .nothing then q.2 else p.2 :: q.2)

/-- Commands taken one after another, stopping at the first that does not answer a next state. -/
def runCommands : List Instr → State → Host.Outcome State Fault Refusal
  | [], s => .next s
  | c :: rest, s =>
    match exec c s with
    | .next t => runCommands rest t
    | .fault r => .fault r
    | .refused r => .refused r

/-- `u` is the state with what local time has reached in `s`, and the part has not yet taken, delivered:
the missing-PPS check (R22), the cadence event (R28), and the expiry of every watched slot (R29), oldest
first, each where local time has reached it (log 11). -/
def State.Delivers (s u : State) : Prop :=
  ∃ (now : Nat) (check cadence : Prop) (checks cadences : List Instr) (expired : List Nat),
    now = s.time.second * 6000000 + s.time.fraction ∧
    (check ↔ s.time.checkTaken = false ∧
        s.time.second * 6000000 + s.time.captureWindow + 1 ≤ now ∨
      s.time.checkTaken = true ∧ s.time.second < 4294967295 ∧
        (s.time.second + 1) * 6000000 + s.time.captureWindow + 1 ≤ now) ∧
    (cadence ↔ s.reporting.opState = .running ∧
      ∃ m, s.time.cadenceMark = some m ∧ (m + 1) * s.grid.period ≤ now) ∧
    (check → checks = [.missingPpsCheck]) ∧ (¬check → checks = []) ∧
    (cadence → cadences = [.cadenceEvent]) ∧ (¬cadence → cadences = []) ∧
    expired.Pairwise (· < ·) ∧
    (∀ n, n ∈ expired ↔ ∃ slot, s.slot? n = some slot ∧ slot.unclosed = true ∧
      slot.overdue = false ∧ slot.deadline ≤ now) ∧
    runCommands (checks ++ cadences ++ expired.map Instr.deadlineExpiry) s = .next u

end Sys2Proof.Machine
end

