-- ==== Sys2Proof/Certificates/Slice0/Obligations.lean ====
section
/-! DEFINITION. The statements for the provers. -/

section

open Sys2Proof Sys2Proof.Machine

/-! ## The block as a whole -/

/-- The command at the front of the queue is taken, with the rest of the queue behind it. -/
def Obligations.StepRunsTheFrontCommand : Prop :=
  ∀ (c : Instr) (rest : List Instr) (s : State), s.pending = c :: rest →
    step s = exec c { s with pending := rest }

/-- Every command answers a next state, none touches the queue of waiting commands, and none leaves the
processor in the midst of an execution (logs 1, 9). -/
def Obligations.CommandsAnswerAndKeepTheQueue : Prop :=
  ∀ (c : Instr) (s : State), ∃ t, exec c s = .next t ∧ t.pending = s.pending ∧
    (s.command.processor ≠ .executing → t.command.processor ≠ .executing)

/-- R18, R22, R28, R29, R121, R159: a request at the head of a FREE processor's queue is executed before
anything else: an idle block takes its row, and every command but the requests and the resets acts as
it does after that row (log 15). With none due, an idle block takes the end of an assembly whose views
have all been considered, else the missing-PPS check, else the cadence event, else the expiry of the
oldest watched slot, else the stop, each when local time has reached it; with nothing due, local time
counts one grain, and a new second has its own check to come (the order and the step are the model's,
log 11; the mark of the check taken, log 13). -/
def Obligations.DueWorkIsTakenInOrderElseOneGrain : Prop :=
  ∀ s : State,
    (∀ (r : Request) (rest : List Request) (c c' : Instr) (u : State), s.inReset = false →
      s.command.processor = .free → s.command.requests = r :: rest →
      ((∃ k, r.code.toNat = k + 1 ∧ requestRows[k]? = some c) ∨
        (r.code.toNat = 0 ∨ 29 ≤ r.code.toNat) ∧ c = .unknownRequest) →
      (s.pending = [] → step s = exec c s) ∧
      (exec c s = .next u → c' ∉ Instr.unknownRequest :: requestRows →
        c' ∉ [Instr.powerOn, .resetnAssert, .resetEnd] → exec c' s = exec c' u)) ∧
    (s.pending = [] → s.inReset = true → step s = .next s) ∧
    (s.pending = [] → s.AtRest → tableSorted s.window.slots →
      (∀ n, s.assembler.current = some n → s.assembler.nextView = none →
        step s = exec .assemblyEnd s) ∧
      (s.assembler.current = none ∨ s.assembler.nextView ≠ none →
        (s.time.stopped = true → step s = .next s) ∧
        (s.time.stopped = false →
          ∀ (now : Nat) (check cadence : Prop) (expired : Nat → Prop),
          now = s.time.second * 6000000 + s.time.fraction →
          (check ↔ s.time.checkTaken = false ∧
              s.time.second * 6000000 + s.time.captureWindow + 1 ≤ now ∨
            s.time.checkTaken = true ∧ s.time.second < 4294967295 ∧
              (s.time.second + 1) * 6000000 + s.time.captureWindow + 1 ≤ now) →
          (cadence ↔ s.reporting.opState = .running ∧
            ∃ m, s.time.cadenceMark = some m ∧ (m + 1) * s.grid.period ≤ now) →
          (∀ n, expired n ↔ ∃ slot, s.slot? n = some slot ∧ slot.unclosed = true ∧
            slot.overdue = false ∧ slot.deadline ≤ now) →
          (check → step s = exec .missingPpsCheck s) ∧
          (¬check → cadence → step s = exec .cadenceEvent s) ∧
          (∀ n, ¬check → ¬cadence → expired n → (∀ k, expired k → n ≤ k) →
            step s = exec (.deadlineExpiry n) s) ∧
          (¬check → ¬cadence → (∀ n, ¬expired n) →
            (lastGrain ≤ now → step s = exec .localTimeStop s) ∧
            (now < lastGrain → s.time.fraction < 6000000 → ∃ t, step s = .next t ∧
              (s.time.fraction < 5999999 →
                t.time.second = s.time.second ∧ t.time.fraction = s.time.fraction + 1 ∧
                t.time.checkTaken = s.time.checkTaken) ∧
              (s.time.fraction = 5999999 →
                t.time.second = s.time.second + 1 ∧ t.time.fraction = 0 ∧
                t.time.checkTaken = false) ∧
              t = { s with time :=
                { s.time with second := t.time.second, fraction := t.time.fraction,
                              checkTaken := t.time.checkTaken } })))))

/-- POWER_ON, RESETN_ASSERT and RESET_END: every block at its device-reset values (R172). The pins at
the levels they have outside, the queue of waiting commands and the count of free values are as they
were; those are the model's choices (logs 2, 3, 7). -/
def Obligations.DeviceResetReturnsEveryBlock : Prop :=
  ∀ (c : Instr) (s : State), c ∈ [Instr.powerOn, .resetnAssert, .resetEnd] →
    (c = .resetEnd → s.inReset = true) → ∃ t, exec c s = .next t ∧
      t.time = .reset ∧ t.grid = .reset ∧ t.links = ⟨.reset, .reset, .reset, .reset⟩ ∧
      t.ingest = .reset ∧ t.sources = [] ∧ t.window = .reset ∧ t.assembler = .reset ∧
      (∀ v, t.view v = .reset) ∧ t.release = .reset ∧ t.command = .reset ∧
      t.reporting = .reset ∧ t.alert = true ∧
      (t.inReset = true ↔ c ≠ .resetEnd) ∧
      t.pins.inhibit = s.pins.inhibit ∧ t.pins.busy0 = s.pins.busy0 ∧
      t.pins.busy1 = s.pins.busy1 ∧ t.freeCount = s.freeCount ∧ t.pending = s.pending

/-- While a reset lasts, only the reset's own events and the levels of the pins change anything, and a pin
that changes changes its level alone (R172, R188). -/
def Obligations.ResetHoldsThePart : Prop :=
  ∀ (c : Instr) (s : State), s.inReset = true →
    (c ∉ [Instr.powerOn, .resetnAssert, .resetEnd, .busyAssert .rl0, .busyAssert .rl1,
        .busyDeassert .rl0, .busyDeassert .rl1, .inhibitAssert, .inhibitDeassert] →
      exec c s = .next s) ∧
    (∀ l : RelId, exec (.busyAssert l) s = .next (s.setBusy l true) ∧
      exec (.busyDeassert l) s = .next (s.setBusy l false)) ∧
    exec .inhibitAssert s = .next { s with pins := { s.pins with inhibit := true } } ∧
    exec .inhibitDeassert s = .next { s with pins := { s.pins with inhibit := false } }

/-- The state after a device reset is safe. -/
def Obligations.ResetStateIsSafe : Prop := State.reset.Safe

/-- Every step keeps every queue within its capacity, the Assembly Queue among them, whose entries stay
different instants, each of a CLOSED slot of the slot map (R32, R39, R47, R97, R113, R145, R155,
R174). -/
def Obligations.StepsKeepQueuesBounded : Prop :=
  ∀ s t : State, s.Bounded → step s = .next t → t.Bounded

/-- Every step keeps one slot per instant, and the free records with the attached ones at 65,536
(R97, R100). -/
def Obligations.StepsConserveRecords : Prop :=
  ∀ s t : State, s.Conserved → step s = .next t → t.Conserved

/-- Every step keeps the items of the Time Reference in their ranges (R17). -/
def Obligations.StepsKeepTheClockInRange : Prop :=
  ∀ s t : State, s.Clocked → step s = .next t → t.Clocked

/-! ## The Time Reference -/

/-- R18, R20, R22, R24: an edge within the capture window, marking the start of second `b` (R19), snaps
local time onto it, settles a pending second, and raises the notice of R24. The check of the second is
to come, and a stopped clock advances again; their marks are the model's (log 13). The edge finds what
local time had reached before it delivered, in `u` (R22, R28, R29; the order is the model's, log 11):
from every state there is such a `u`, `s` itself where nothing is due. -/
def Obligations.InWindowEdgeSnapsLocalTime : Prop :=
  (∀ s : State, tableSorted s.window.slots → ∃ u, s.Delivers u) ∧
  ∀ (s u : State) (b : Nat), s.AtRest → tableSorted s.window.slots → s.Delivers u → u.AtRest →
    u.time.captureWindow ≤ 6000 →
    (u.time.fraction ≤ u.time.captureWindow ∧ b = u.time.second ∨
      6000000 - u.time.captureWindow ≤ u.time.fraction ∧ u.time.fraction ≤ 5999999 ∧
        u.time.second < 4294967295 ∧ b = u.time.second + 1) →
    ∃ (t : TimeRef) (cause : Option TimeCause),
      exec .ppsEdge s =
        .next (cause.elim { u with time := t } fun c => raiseTime c { u with time := t }) ∧
      t.fraction = 0 ∧ t.pendingSecond = none ∧ t.outlierRun = 0 ∧ t.boundaryMark = true ∧
      t.checkTaken = false ∧ t.stopped = false ∧
      (∀ p, u.time.pendingSecond = some p → u.reporting.opState = .idle → t.second = p) ∧
      (u.time.pendingSecond = none ∨ u.reporting.opState ≠ .idle → t.second = b) ∧
      (∀ applied : Prop, (applied ↔ ∃ p, u.time.pendingSecond = some p ∧
          (u.reporting.opState = .idle ∨ p = b)) →
        (u.time.quality = .unset → ¬applied →
          t.quality = .unset ∧ t.holdoverSeconds = u.time.holdoverSeconds) ∧
        (u.time.quality = .unset → applied → t.quality = .locked ∧ t.holdoverSeconds = 0) ∧
        (u.time.quality = .locked →
          t.quality = .locked ∧ t.holdoverSeconds = u.time.holdoverSeconds) ∧
        (u.time.quality = .holdover ∨ u.time.quality = .freeRun →
          t.quality = .locked ∧ t.holdoverSeconds = 0) ∧
        (u.time.pendingSecond ≠ none → ¬applied → cause = some .pendingDiscarded) ∧
        (u.time.pendingSecond = none ∨ applied → t.quality ≠ u.time.quality →
          cause = some .captured) ∧
        (applied → t.quality = u.time.quality → cause = some .pending) ∧
        (u.time.pendingSecond = none → t.quality = u.time.quality → cause = none)) ∧
      t.cadenceMark = u.time.cadenceMark ∧ t.captureWindow = u.time.captureWindow ∧
      t.holdoverLimit = u.time.holdoverLimit

/-- R18, R19, R21, R22: an edge outside the capture window lengthens the outlier run; the third steps the
clock in IDLE, with the check of the second to come and a stopped clock advancing again (their marks
are log 13), and outside IDLE takes the quality to FREE_RUN. The edge finds what local time had reached
before it delivered, in `u` (the order is the model's, log 11). -/
def Obligations.OutlierEdgesLengthenTheRunAndTheThirdActs : Prop :=
  ∀ s u : State, s.AtRest → tableSorted s.window.slots → s.Delivers u → u.AtRest →
    u.time.captureWindow < u.time.fraction →
    (u.time.fraction < 6000000 - u.time.captureWindow ∨ u.time.second = 4294967295) →
    (u.time.outlierRun < 2 →
      exec .ppsEdge s =
        .next { u with time := { u.time with outlierRun := u.time.outlierRun + 1 } }) ∧
    (u.time.outlierRun = 2 → u.reporting.opState = .idle → ∃ t : TimeRef,
      exec .ppsEdge s = .next (raiseTime .stepped { u with time := t }) ∧
      t.fraction = 0 ∧ t.pendingSecond = none ∧ t.outlierRun = 0 ∧ t.boundaryMark = true ∧
      t.checkTaken = false ∧ t.stopped = false ∧ t.holdoverSeconds = 0 ∧
      (∀ p, u.time.pendingSecond = some p → t.second = p ∧ t.quality = .locked) ∧
      (u.time.pendingSecond = none →
        t.second = u.time.second +
          (if 3000000 ≤ u.time.fraction ∧ u.time.second < 4294967295 then 1 else 0) ∧
        t.quality = if u.time.quality = .unset then .unset else .locked) ∧
      t.cadenceMark = u.time.cadenceMark ∧ t.captureWindow = u.time.captureWindow ∧
      t.holdoverLimit = u.time.holdoverLimit) ∧
    (u.time.outlierRun = 2 → u.reporting.opState ≠ .idle →
      (u.time.quality = .locked ∨ u.time.quality = .holdover →
        exec .ppsEdge s = .next (raiseTime .outliers (setFlag .timeFreeRun
          { u with time :=
            { u.time with outlierRun := 0, quality := .freeRun, holdoverSeconds := 0 } }))) ∧
      (u.time.quality = .freeRun →
        exec .ppsEdge s = .next { u with time := { u.time with outlierRun := 0 } }))

/-- R22, R23: the missing-PPS check of a second, taken once local time is beyond the capture window. The
mark of the check taken, and when the command acts, are the model's (logs 11, 13). -/
def Obligations.MissingPpsCheckActsOnTheQuality : Prop :=
  ∀ s : State, s.AtRest → s.time.stopped = false → s.time.checkTaken = false →
    s.time.captureWindow < s.time.fraction →
    (s.time.boundaryMark = true →
      exec .missingPpsCheck s =
        .next { s with time := { s.time with boundaryMark := false, checkTaken := true } }) ∧
    (s.time.boundaryMark = false →
      (s.time.quality = .unset ∨ s.time.quality = .freeRun →
        exec .missingPpsCheck s = .next { s with time := { s.time with checkTaken := true } }) ∧
      (s.time.quality = .locked →
        exec .missingPpsCheck s = .next (raiseTime .missing
          { s with time :=
            { s.time with checkTaken := true, quality := .holdover, holdoverSeconds := 1 } })) ∧
      (s.time.quality = .holdover → s.time.holdoverSeconds < s.time.holdoverLimit →
        exec .missingPpsCheck s = .next
          { s with time :=
            { s.time with checkTaken := true, holdoverSeconds := s.time.holdoverSeconds + 1 } }) ∧
      (s.time.quality = .holdover → s.time.holdoverLimit ≤ s.time.holdoverSeconds →
        exec .missingPpsCheck s = .next (raiseTime .holdoverLimit (setFlag .timeFreeRun
          { s with time :=
            { s.time with checkTaken := true, quality := .freeRun, holdoverSeconds := 0 } }))))

/-- R18: at its last grain local time stops, and a stopped clock takes no later check, cadence event or
deadline expiry. The field that says stopped is the model's (log 13). -/
def Obligations.LocalTimeStopsAtItsLastGrain : Prop :=
  ∀ s : State, s.AtRest →
    (s.time.stopped = false → s.time.second = 4294967295 → s.time.fraction = 5999999 →
      exec .localTimeStop s = .next { s with time := { s.time with stopped := true } }) ∧
    (s.time.stopped = true →
      exec .missingPpsCheck s = .next s ∧ exec .cadenceEvent s = .next s ∧
      exec .localTimeStop s = .next s ∧ (∀ n, exec (.deadlineExpiry n) s = .next s) ∧ tick s = s)

/-- R86: the room test, over any sorted slot map. -/
def Obligations.RoomTestAllowsASpanOf256Instants : Prop :=
  ∀ (n : Nat) (slots : Table Slot), tableSorted slots →
    (roomFor n slots = true ↔
      slots.length < 256 ∧
        ∀ a ∈ n :: slots.map (·.1), ∀ b ∈ n :: slots.map (·.1), a ≤ b + 255)

/-- R28, R29, R101: the cadence event of the instant beyond the cadence mark, once local time has reached
it: it does nothing at or below the horizon or where the instant has a slot, and otherwise opens one
where there is room, with the deadline R13 gives. A deadline at or below local time expires at once.
When the command acts is the model's (log 11). -/
def Obligations.CadenceEventOpensTheSlotOfItsInstant : Prop :=
  ∀ (s u v : State) (m n deadline : Nat), s.AtRest → s.time.stopped = false →
    s.reporting.opState = .running → s.time.cadenceMark = some m → n = m + 1 →
    n * s.grid.period ≤ s.time.second * 6000000 + s.time.fraction →
    u = { s with time := { s.time with cadenceMark := some n } } →
    deadline = n * s.grid.period +
      (if s.window.config.wait = .fixed then waitGrains s.window.config.fixedCode
       else min (max (lmax s.sources + s.window.config.margin) s.window.config.minWait)
         (waitGrains s.window.config.capCode)) →
    v = { u with window :=
      { s.window with
        slots := tableInsert n
          { state := .opened, opener := .cadence, contributors := [], closeReason := none,
            overdue := false, deadline := deadline }
          s.window.slots
        counters := { s.window.counters with
          openedByCadence := min (s.window.counters.openedByCadence + 1) 4294967295 } } } →
    ((∃ h, s.window.horizon = some h ∧ n ≤ h) ∨ s.slot? n ≠ none →
      exec .cadenceEvent s = .next u) ∧
    ((∀ h, s.window.horizon = some h → h < n) → s.slot? n = none →
      roomFor n s.window.slots = true →
      (s.time.second * 6000000 + s.time.fraction < deadline → exec .cadenceEvent s = .next v) ∧
      (deadline ≤ s.time.second * 6000000 + s.time.fraction →
        exec .cadenceEvent s = exec (.deadlineExpiry n) v))

/-- R102: a cadence event that finds no room closes every older unclosed slot with OVERRUN, oldest first,
skips its instant, and sets the fault; the walk follows (R107). When the command acts is the model's
(log 11), and so is the order of the walk and the take (log 10). -/
def Obligations.OverrunClosesOlderSlotsAndSkipsTheInstant : Prop :=
  ∀ (s u v : State) (m n : Nat) (closes : List Nat), s.AtRest → s.time.stopped = false →
    tableSorted s.window.slots →
    s.reporting.opState = .running → s.time.cadenceMark = some m → n = m + 1 →
    n * s.grid.period ≤ s.time.second * 6000000 + s.time.fraction →
    (∀ h, s.window.horizon = some h → h < n) → s.slot? n = none →
    roomFor n s.window.slots = false →
    closes.Pairwise (· < ·) →
    (∀ k, k ∈ closes ↔ k < n ∧ ∃ slot, s.slot? k = some slot ∧ slot.unclosed = true) →
    u = { s with time := { s.time with cadenceMark := some n } } →
    v = closes.foldl (fun w k => closeSlot k .overrun w) u →
    ∃ t, exec .cadenceEvent s = .next t ∧
      t = settle (setFlag .overrun { v with window := { v.window with counters :=
        { v.window.counters with
          skippedInstants := min (v.window.counters.skippedInstants + 1) 4294967295 } } }) ∧
      t.slot? n = none ∧ t.flag .overrun = true ∧
      t.time.cadenceMark = some n ∧
      t.window.counters.skippedInstants = min (s.window.counters.skippedInstants + 1) 4294967295 ∧
      (∀ k slot, s.slot? k = some slot → slot.unclosed = true → k < n →
        ∃ slot', t.slot? k = some slot' ∧ slot'.unclosed = false ∧
          slot'.closeReason = some .overrun ∧ slot'.contributors = slot.contributors)

/-- R108: in EARLY and DEADLINE mode the expiry of slot `x` closes it with every older unclosed slot, oldest
first, each for the reason of the table; the walk follows (R107). When the command acts is the model's
(log 11), and so is the order of the walk and the take (log 10). -/
def Obligations.DeadlineExpiryClosesTheSlotAndAllOlder : Prop :=
  ∀ (s : State) (x : Nat) (slotX : Slot) (closes : List (Nat × CloseReason)), s.AtRest →
    s.time.stopped = false →
    tableSorted s.window.slots → s.slot? x = some slotX → slotX.unclosed = true →
    slotX.overdue = false → slotX.deadline ≤ s.time.second * 6000000 + s.time.fraction →
    s.window.config.mode ≠ .demand →
    (closes.map (·.1)).Pairwise (· < ·) →
    (∀ k r, (k, r) ∈ closes ↔ k ≤ x ∧ ∃ slot, s.slot? k = some slot ∧ slot.unclosed = true ∧
      r = if s.window.config.mode = .early ∧ slot.state = .ready then .complete else .deadline) →
    ∃ t, exec (.deadlineExpiry x) s = .next t ∧
      t = settle (closes.foldl (fun w p => closeSlot p.1 p.2 w) s) ∧
      (∀ k slot, s.slot? k = some slot → slot.unclosed = true → k ≤ x →
        ∃ slot', t.slot? k = some slot' ∧ slot'.unclosed = false ∧
          slot'.closeReason =
            some (if s.window.config.mode = .early ∧ slot.state = .ready then .complete
                  else .deadline) ∧
          slot'.contributors = slot.contributors) ∧
      (∃ h, t.window.horizon = some h ∧ x ≤ h) ∧
      (s.window.config.mode = .deadline → t.window.horizon = some x ∧
        ∀ k slot, s.slot? k = some slot → slot.unclosed = true → x < k →
          ∃ slot', t.slot? k = some slot' ∧ slot'.closeReason = slot.closeReason ∧
            slot'.contributors = slot.contributors ∧ slot'.deadline = slot.deadline)

/-- R109: in DEMAND mode the expiry of slot `x` closes nothing: the slot is marked overdue and counted, and
the host is told when it is the oldest unclosed one and no OVERDUE notice waits. When the command acts
is the model's (log 11). -/
def Obligations.DeadlineExpiryInDemandModeMarksOverdue : Prop :=
  ∀ (s u : State) (x : Nat) (slot : Slot), s.AtRest → s.time.stopped = false →
    tableSorted s.window.slots → s.slot? x = some slot → slot.unclosed = true →
    slot.overdue = false → slot.deadline ≤ s.time.second * 6000000 + s.time.fraction →
    s.window.config.mode = .demand →
    u = { s with window :=
      { s.window with
        slots := tableInsert x { slot with overdue := true } s.window.slots
        counters := { s.window.counters with
          overdueMarks := min (s.window.counters.overdueMarks + 1) 4294967295 } } } →
    ((∀ k other, s.slot? k = some other → other.unclosed = true → x ≤ k) →
      (∀ q ∈ s.reporting.notices, q.cls ≠ .overdue) →
      exec (.deadlineExpiry x) s = .next (raiseNotice .overdue .none x u)) ∧
    ((∃ k other, s.slot? k = some other ∧ other.unclosed = true ∧ k < x) ∨
        (∃ q ∈ s.reporting.notices, q.cls = .overdue) →
      exec (.deadlineExpiry x) s = .next u)

/-! ## Reception, the arbiter and the Unknown Source Log -/

/-- R34 to R36, R183: a frame is the marker, the length of kind and body, kind and body, and their CRC;
and a receiver that hunts recovers any frame whose length it accepts: kind, body and CRC come out as they
were framed, and it hunts again. The CRC register shifts by the reflected polynomial, starts at all
ones, takes each byte least significant bit first, and is sent inverted, least significant byte first. -/
def Obligations.ReceiverRecoversAnyFramedBody : Prop :=
  (∀ (low high : Nat) (kind : Byte) (body : List Byte), low ≤ body.length + 1 →
    body.length + 1 ≤ high → high ≤ 65535 →
    Receiver.feed low high .hunt (frameBytes kind body) =
      (.hunt, [.whole (kind :: body) (crcBytes (kind :: body))])) ∧
  (∀ (kind : Byte) (body : List Byte), body.length + 1 ≤ 65535 →
    ∃ high low : Byte, high.toNat * 256 + low.toNat = body.length + 1 ∧
      frameBytes kind body =
        [0xA5#8, 0x5A#8, high, low] ++ (kind :: body) ++ crcBytes (kind :: body)) ∧
  (∀ (bytes : List Byte) (shift : BitVec 32 → BitVec 32) (register : BitVec 32),
    (∀ x, shift x = if x.getLsbD 0 then (x >>> 1) ^^^ (0x04C11DB7#32).reverse else x >>> 1) →
    register = bytes.foldl (fun x b => shift^[8] (x ^^^ b.zeroExtend 32)) (BitVec.allOnes 32) →
    ∃ b0 b1 b2 b3 : Byte, crcBytes bytes = [b0, b1, b2, b3] ∧ b3 ++ b2 ++ b1 ++ b0 = ~~~register) ∧
  crcBytes [0x31, 0x32, 0x33, 0x34, 0x35, 0x36, 0x37, 0x38, 0x39] = [0x26, 0x39, 0xF4, 0xCB]

/-- R156 to R158, R183: a REQUEST framed and sent byte by byte into a hunting Command Link enters the
request queue with its code, tag and fields, and changes nothing else but its count. That the last byte
completes the frame is the model's (log 14), and so is that the next event, and not this one, finds it
executed where the processor is FREE and the queue was empty (log 15). -/
def Obligations.FramedRequestEntersTheQueue : Prop :=
  ∀ (s : State) (code tag : Byte) (fields : List Byte), s.AtRest →
    s.command.receiver = .hunt → s.command.requests.length < 4 → fields.length + 3 ≤ 65535 →
    runCommands ((frameBytes kindRequest (code :: tag :: fields)).map Instr.clByte) s =
      .next { s with command := { s.command with
        requests := s.command.requests ++ [⟨code, tag, fields⟩]
        counters := { s.command.counters with
          requestsTaken := min (s.command.counters.requestsTaken + 1) 4294967295 } } }

/-- R33 to R36, R156: what one byte does to an Ingest Link that is OFF, hunts, reads a length, or is still
short of the end of a frame; and the same walk on the Command Link, with its own least length. -/
def Obligations.OneByteWalksItsReceiver : Prop :=
  ∀ (s : State) (l : LinkId) (b : Byte), s.AtRest →
    ((s.link l).on = false → exec (.ingestByte l b) s = .next s) ∧
    ((s.link l).on = true →
      ((s.link l).receiver = .hunt → b = 0xA5#8 →
        exec (.ingestByte l b) s = .next (s.modifyLink l fun k => { k with receiver := .marker })) ∧
      ((s.link l).receiver = .hunt → b ≠ 0xA5#8 →
        exec (.ingestByte l b) s = .next (s.modifyLink l fun k =>
          { k with counters := { k.counters with
              huntBytes := min (k.counters.huntBytes + 1) 4294967295 } })) ∧
      ((s.link l).receiver = .marker → b = 0x5A#8 →
        exec (.ingestByte l b) s =
          .next (s.modifyLink l fun k => { k with receiver := .length none })) ∧
      ((s.link l).receiver = .marker → b = 0xA5#8 →
        exec (.ingestByte l b) s = .next (s.modifyLink l fun k =>
          { k with counters := { k.counters with
              huntBytes := min (k.counters.huntBytes + 1) 4294967295 } })) ∧
      ((s.link l).receiver = .marker → b ≠ 0x5A#8 → b ≠ 0xA5#8 →
        exec (.ingestByte l b) s = .next (s.modifyLink l fun k =>
          { k with
            receiver := .hunt
            counters := { k.counters with
              huntBytes := min (k.counters.huntBytes + 2) 4294967295 } })) ∧
      ((s.link l).receiver = .length none →
        exec (.ingestByte l b) s =
          .next (s.modifyLink l fun k => { k with receiver := .length (some b) })) ∧
      (∀ first : Byte, (s.link l).receiver = .length (some first) →
        8 ≤ first.toNat * 256 + b.toNat → first.toNat * 256 + b.toNat ≤ 512 →
        exec (.ingestByte l b) s = .next (s.modifyLink l fun k =>
          { k with receiver := .frame (first.toNat * 256 + b.toNat) [] })) ∧
      (∀ first : Byte, (s.link l).receiver = .length (some first) →
        (first.toNat * 256 + b.toNat < 8 ∨ 512 < first.toNat * 256 + b.toNat) →
        exec (.ingestByte l b) s = .next (s.modifyLink l fun k =>
          { k with
            receiver := .hunt
            counters := { k.counters with
              lengthError := min (k.counters.lengthError + 1) 4294967295 } })) ∧
      (∀ n got, (s.link l).receiver = .frame n got → got.length + 1 < n + 4 →
        exec (.ingestByte l b) s =
          .next (s.modifyLink l fun k => { k with receiver := .frame n (got ++ [b]) }))) ∧
    ((s.command.receiver = .hunt → b = 0xA5#8 →
        exec (.clByte b) s =
          .next { s with command := { s.command with receiver := .marker } }) ∧
      (s.command.receiver = .hunt → b ≠ 0xA5#8 →
        exec (.clByte b) s = .next { s with command := { s.command with
          receiver := .hunt
          counters := { s.command.counters with
            huntBytes := min (s.command.counters.huntBytes + 1) 4294967295 } } }) ∧
      (s.command.receiver = .marker → b = 0x5A#8 →
        exec (.clByte b) s =
          .next { s with command := { s.command with receiver := .length none } }) ∧
      (s.command.receiver = .marker → b = 0xA5#8 →
        exec (.clByte b) s = .next { s with command := { s.command with
          receiver := .marker
          counters := { s.command.counters with
            huntBytes := min (s.command.counters.huntBytes + 1) 4294967295 } } }) ∧
      (s.command.receiver = .marker → b ≠ 0x5A#8 → b ≠ 0xA5#8 →
        exec (.clByte b) s = .next { s with command := { s.command with
          receiver := .hunt
          counters := { s.command.counters with
            huntBytes := min (s.command.counters.huntBytes + 2) 4294967295 } } }) ∧
      (s.command.receiver = .length none →
        exec (.clByte b) s =
          .next { s with command := { s.command with receiver := .length (some b) } }) ∧
      (∀ first : Byte, s.command.receiver = .length (some first) →
        3 ≤ first.toNat * 256 + b.toNat →
        exec (.clByte b) s =
          .next { s with command := { s.command with receiver := .frame (first.toNat * 256 + b.toNat) [] } }) ∧
      (∀ first : Byte, s.command.receiver = .length (some first) →
        first.toNat * 256 + b.toNat < 3 →
        exec (.clByte b) s = .next { s with command := { s.command with
          receiver := .hunt
          counters := { s.command.counters with
            lengthError := min (s.command.counters.lengthError + 1) 4294967295 } } }) ∧
      (∀ n got, s.command.receiver = .frame n got → got.length + 1 < n + 4 →
        exec (.clByte b) s =
          .next { s with command := { s.command with receiver := .frame n (got ++ [b]) } }))

/-- R36 to R39, R41, R46: the last CRC byte of a frame, as INGEST_FRAME and as INGEST_BYTE (log 14): the
checks in their order, then the filter, the FIFO, and the grant that an idle dispatcher makes at once, of
a known source or of an unknown identifier, whose frame is recorded and leaves the dispatcher FREE. -/
def Obligations.WholeFrameIsCheckedFilteredAndQueued : Prop :=
  ∀ (s t : State) (l : LinkId) (b : Byte) (c : Instr) (n : Nat) (got content crc : List Byte)
    (kind b0 b1 : Byte) (rest : List Byte) (f : IngestFrame), s.AtRest →
    (c = .ingestFrame l b ∨ c = .ingestByte l b) →
    (s.link l).on = true → (s.link l).receiver = .frame n got → got.length + 1 = n + 4 →
    content = (got ++ [b]).take n → crc = (got ++ [b]).drop n → content = kind :: b0 :: b1 :: rest →
    t = s.modifyLink l (fun k => { k with receiver := .hunt }) →
    f.link = l → f.kind = (if kind = 0x01#8 then .measurement else .description) →
    f.id.toNat = b0.toNat * 256 + b1.toNat → f.body = b0 :: b1 :: rest →
    f.stampSecond = s.time.second → f.stampFraction = s.time.fraction →
    (crc ≠ crcBytes content →
      exec c s = .next (t.countLink l fun k =>
        { k with crcError := min (k.crcError + 1) 4294967295 })) ∧
    (crc = crcBytes content → kind ≠ 0x01#8 → kind ≠ 0x02#8 →
      exec c s = .next (t.countLink l fun k =>
        { k with kindError := min (k.kindError + 1) 4294967295 })) ∧
    (crc = crcBytes content → (kind = 0x01#8 ∨ kind = 0x02#8) →
      ((∃ i, i < 16 ∧ (s.link l).filterMask.getLsbD i = true ∧
          f.id.getLsbD i ≠ (s.link l).filterMatch.getLsbD i) →
        exec c s = .next (t.countLink l fun k =>
          { k with filtered := min (k.filtered + 1) 4294967295 })) ∧
      ((∀ i, i < 16 → (s.link l).filterMask.getLsbD i = true →
          f.id.getLsbD i = (s.link l).filterMatch.getLsbD i) →
        ((s.link l).fifo.length < 8 → s.ingest.dispatch ≠ none →
          exec c s = .next (t.modifyLink l fun k =>
            { k with
              fifo := k.fifo ++ [f]
              counters := { k.counters with
                enqueued := min (k.counters.enqueued + 1) 4294967295 } })) ∧
        (8 ≤ (s.link l).fifo.length → s.flag .ingestOverflow = true →
          exec c s = .next (t.countLink l fun k =>
            { k with overflow := min (k.overflow + 1) 4294967295 })) ∧
        (8 ≤ (s.link l).fifo.length → s.flag .ingestOverflow = false →
          exec c s = .next (raiseNotice .congestion (.ingest l) 4 (setFlag .ingestOverflow
            (t.countLink l fun k => { k with overflow := min (k.overflow + 1) 4294967295 })))) ∧
        (∀ i, s.ingest.dispatch = none → (∀ m, (s.link m).fifo = []) → s.knownSource f.id = some i →
          exec c s = .next
            { t.modifyLink l (fun k =>
                { k with
                  passedOver := 0
                  counters := { k.counters with
                    enqueued := min (k.counters.enqueued + 1) 4294967295
                    granted := min (k.counters.granted + 1) 4294967295 } }) with
              ingest := { s.ingest with lastGranted := l, dispatch := some ⟨f, i⟩ } }) ∧
        (s.ingest.dispatch = none → (∀ m, (s.link m).fifo = []) → s.knownSource f.id = none →
          exec c s = .next (recordUnknown f
            { t.modifyLink l (fun k =>
                { k with
                  passedOver := 0
                  counters := { k.counters with
                    enqueued := min (k.counters.enqueued + 1) 4294967295
                    granted := min (k.counters.granted + 1) 4294967295 } }) with
              ingest := { s.ingest with lastGranted := l } }))))

/-- R42, R43: the link the arbiter chooses in each mode; it chooses none exactly when none is waiting. -/
def Obligations.ArbiterChoosesByItsMode : Prop :=
  ∀ s : State,
    (chooseLink s = none ↔ ∀ m, (s.link m).fifo = []) ∧
    ∀ l, chooseLink s = some l →
      (s.link l).fifo ≠ [] ∧
      (s.ingest.mode = .priority →
        (0 < s.ingest.fairness →
          (∃ m, (s.link m).fifo ≠ [] ∧ s.ingest.fairness ≤ (s.link m).passedOver) →
          s.ingest.fairness ≤ (s.link l).passedOver ∧
          ∀ m, (s.link m).fifo ≠ [] → s.ingest.fairness ≤ (s.link m).passedOver →
            l.index ≤ m.index) ∧
        (s.ingest.fairness = 0 ∨
            (∀ m, (s.link m).fifo ≠ [] → (s.link m).passedOver < s.ingest.fairness) →
          ∀ m, (s.link m).fifo ≠ [] → l.index ≤ m.index)) ∧
      (s.ingest.mode = .roundRobin →
        ∀ m, (s.link m).fifo ≠ [] →
          (l.index + 3 - s.ingest.lastGranted.index) % 4 ≤
            (m.index + 3 - s.ingest.lastGranted.index) % 4)

/-- R41, R44, R45: a grant takes the head frame of the chosen link, records the link, and moves every
passed-over count. When a dispatch ends the dispatcher is FREE and the arbiter grants at once: a frame
of a known source is in dispatch then, and one of an unknown identifier ends its dispatch at once, so
that the arbiter grants again; a BUSY dispatcher is granted nothing. -/
def Obligations.GrantsFollowWhileTheDispatcherIsFree : Prop :=
  ∀ (s : State) (l : LinkId) (f : IngestFrame) (rest : List IngestFrame) (u : State),
    u = { s with ingest := { s.ingest with dispatch := none } } →
    ((∀ m, (s.link m).fifo = []) → endDispatch s = u) ∧
    (s.ingest.dispatch ≠ none → arbitrate s = s) ∧
    (s.ingest.dispatch = none → arbitrate s = endDispatch s) ∧
    ((s.link l).fifo = f :: rest →
      (chooseLink u = some l →
        (∀ i, s.knownSource f.id = some i → endDispatch s = grantTo l f rest u) ∧
        (s.knownSource f.id = none → endDispatch s = endDispatch (grantTo l f rest u))) ∧
      ∀ t, t = grantTo l f rest s →
        t.ingest.lastGranted = l ∧ (t.link l).fifo = rest ∧ (t.link l).passedOver = 0 ∧
        (t.link l).counters.granted = min ((s.link l).counters.granted + 1) 4294967295 ∧
        (∀ m, m ≠ l → (t.link m).fifo = (s.link m).fifo ∧
          (t.link m).passedOver =
            if (s.link m).fifo = [] then (s.link m).passedOver
            else min ((s.link m).passedOver + 1) 15) ∧
        (∀ i, s.knownSource f.id = some i → t.ingest.dispatch = some ⟨f, i⟩) ∧
        (s.knownSource f.id = none → t.ingest.dispatch = s.ingest.dispatch ∧
          t.ingest.log = (recordUnknown f s).ingest.log))

/-- R46 to R48: the recording of a frame of an unknown identifier: counted in its log entry, or added at
the end with a notice, the oldest entry of a full log having made room. -/
def Obligations.UnknownFrameIsLogged : Prop :=
  ∀ (s u : State) (f : IngestFrame), s.ingest.log.length ≤ 16 →
    u = s.countLink f.link (fun k => { k with unknownFrames := min (k.unknownFrames + 1) 4294967295 }) →
    ((∃ e ∈ s.ingest.log, e.id = f.id) →
      recordUnknown f s = { u with ingest := { s.ingest with
        log := s.ingest.log.map fun e =>
          if e.id = f.id then { e with count := min (e.count + 1) 65535 } else e } }) ∧
    ((∀ e ∈ s.ingest.log, e.id ≠ f.id) →
      (s.ingest.log.length < 16 →
        recordUnknown f s = raiseNotice .unknown (.ingest f.link) f.id.toNat
          { u with ingest := { s.ingest with
            log := s.ingest.log ++ [⟨f.id, f.link, f.stampSecond, 1⟩] } }) ∧
      (s.ingest.log.length = 16 → ∃ before oldest after,
        s.ingest.log = before ++ oldest :: after ∧
        (∀ e ∈ s.ingest.log, oldest.firstSeen ≤ e.firstSeen) ∧
        (∀ e ∈ before, oldest.firstSeen < e.firstSeen) ∧
        recordUnknown f s = raiseNotice .unknown (.ingest f.link) f.id.toNat
          { u with ingest := { s.ingest with
            log := before ++ after ++ [⟨f.id, f.link, f.stampSecond, 1⟩] } }))

/-! ## The grid and its arithmetic -/

/-- R4, R5, R7: the conversion of a timestamp to grains is the nearest grain, halves up, and the instant is
the nearest one, the later of two at half a period; both refuse only past the last second. The offset
from a source's own grid is that from its nearest instant, in the same way. -/
def Obligations.TimestampGoesToTheNearestInstant : Prop :=
  ∀ f0 rate tb s f : Nat, rate ∈ rateFamily f0 → 0 < tb → s ≤ 4294967295 →
    (tb ≤ f → toGrains tb s f = none) ∧
    (f < tb → (toGrains tb s f = none ↔ s = 4294967295 ∧ 6000000 * tb ≤ f * 6000000 + tb / 2)) ∧
    (f < tb → ∀ s' g, toGrains tb s f = some (s', g) →
      s' ≤ 4294967295 ∧ g < 6000000 ∧
      2 * (s' * 6000000 + g) * tb ≤ 2 * (s * 6000000 * tb + f * 6000000) + tb ∧
      2 * (s * 6000000 * tb + f * 6000000) < 2 * (s' * 6000000 + g) * tb + tb) ∧
    (∀ g, g < 6000000 →
      (nearestInstant rate s g = none ↔
        s = 4294967295 ∧ 6000000 - periodOf rate / 2 ≤ g) ∧
      (∀ n d, nearestInstant rate s g = some (n, d) →
        n < 4294967296 * rate ∧
        (n : Int) * periodOf rate + d = (s : Int) * 6000000 + g ∧
        -(periodOf rate / 2 : Nat) ≤ d ∧ d < (periodOf rate / 2 : Nat)) ∧
      (∃ j : Nat, (g : Int) = j * (6000000 / rate : Nat) + ownGridOffset rate g) ∧
      -(6000000 / rate / 2 : Nat) ≤ ownGridOffset rate g ∧
      ownGridOffset rate g < (6000000 / rate / 2 : Nat))

/-- R10: the rotation is the deviation times the offset in binary angle units, rounded to the nearest with
halves away from zero, turned the other way; the angle wraps at a full turn. -/
def Obligations.RotationTurnsTheAngleBack : Prop :=
  ∀ (deviation offset : Int) (angle : Word16),
    2 * (rotation deviation offset * 6000000000 + deviation * offset * 65536).natAbs ≤ 6000000000 ∧
    (2 * (rotation deviation offset * 6000000000 + deviation * offset * 65536).natAbs = 6000000000 →
      (deviation * offset * 65536).natAbs < (rotation deviation offset * 6000000000).natAbs) ∧
    rotation deviation (-offset) = -rotation deviation offset ∧
    rotation (-deviation) offset = -rotation deviation offset ∧
    ((rotate angle (rotation deviation offset)).toNat : Int) =
      ((angle.toNat : Int) + rotation deviation offset) % 65536 ∧
    rotate (rotate angle (rotation deviation offset)) (rotation deviation (-offset)) = angle

/-- R11 to R14: a measured latency lies in 0 to 10 s; an estimate at or below it takes it, one above it
falls by a sixteenth of the difference, rounded up, and never below it. Lmax is the largest estimate of
the ACTIVE required entries, 0 if there is none; the wait codes stand for the grains of their table. -/
def Obligations.LatencyEstimatesMoveAndLmaxIsTheLargest : Prop :=
  ∀ (arrival sample estimate : Nat) (sources : Table Entry),
    (arrival ≤ sample → measuredLatency arrival sample = 0) ∧
    (sample ≤ arrival → arrival ≤ sample + 60000000 →
      sample + measuredLatency arrival sample = arrival) ∧
    (sample + 60000000 < arrival → measuredLatency arrival sample = 60000000) ∧
    (∀ m, m = measuredLatency arrival sample →
      (estimate ≤ m → nextLatency estimate m = m) ∧
      (m < estimate →
        m ≤ nextLatency estimate m ∧ nextLatency estimate m < estimate ∧
        estimate - m ≤ 16 * (estimate - nextLatency estimate m) ∧
        16 * (estimate - nextLatency estimate m) < estimate - m + 16)) ∧
    (∀ p ∈ sources, p.2.state = .active → p.2.options.required = true →
      p.2.latency ≤ lmax sources) ∧
    (lmax sources = 0 ∨ ∃ p ∈ sources, p.2.state = .active ∧ p.2.options.required = true ∧
      p.2.latency = lmax sources) ∧
    (∀ code grains, (code, grains) ∈ [(0, 300000), (1, 600000), (2, 1200000), (3, 3000000),
        (4, 6000000), (5, 12000000), (6, 30000000), (7, 60000000)] → waitGrains code = grains)

/-- R15, R16: a CDEG angle is the nearest hundredth of a degree below a full turn; an M16 magnitude is the
nearest multiple of the shift, halves up, saturating at 65,535. -/
def Obligations.OutputConversionsRoundAndSaturate : Prop :=
  ∀ (angle : Word16) (magnitude : BitVec 24) (shift : Nat), shift ≤ 8 →
    outAngle .bin16 angle = angle.toNat ∧
    outAngle .cdeg angle < 36000 ∧
    (∃ turn : Nat, (turn = 0 ∨ turn = 36000 ∧ outAngle .cdeg angle = 0) ∧
      2 * 65536 * (outAngle .cdeg angle + turn) ≤ 2 * 36000 * angle.toNat + 65536 ∧
      2 * 36000 * angle.toNat < 2 * 65536 * (outAngle .cdeg angle + turn) + 65536) ∧
    outMagnitude .m24 shift magnitude = magnitude.toNat ∧
    outMagnitude .m16 shift magnitude ≤ 65535 ∧
    (outMagnitude .m16 shift magnitude < 65535 →
      2 * 2 ^ shift * outMagnitude .m16 shift magnitude ≤ 2 * magnitude.toNat + 2 ^ shift ∧
      2 * magnitude.toNat < 2 * 2 ^ shift * outMagnitude .m16 shift magnitude + 2 ^ shift) ∧
    (outMagnitude .m16 shift magnitude = 65535 →
      2 * 2 ^ shift * 65535 ≤ 2 * magnitude.toNat + 2 ^ shift)

/-- R57: an instant entered in a receipt history joins those marked; the span of 64 instants moves up with
the newest, and an instant below it changes nothing. -/
def Obligations.ReceiptHistoryKeepsItsSpan : Prop :=
  ∀ (r : Receipt) (x y : Nat),
    (r.newest = none →
      (Receipt.enter x r).newest = some x ∧ ((Receipt.enter x r).marked y = true ↔ y = x)) ∧
    (∀ newest, r.newest = some newest → newest < x →
      (Receipt.enter x r).newest = some x ∧
      ((Receipt.enter x r).marked y = true ↔ y = x ∨ r.marked y = true ∧ x < y + 64)) ∧
    (∀ newest, r.newest = some newest → x ≤ newest → newest < x + 64 →
      (Receipt.enter x r).newest = some newest ∧
      ((Receipt.enter x r).marked y = true ↔ y = x ∨ r.marked y = true)) ∧
    (∀ newest, r.newest = some newest → x + 64 ≤ newest → Receipt.enter x r = r)

/-! ## Placement and descriptions -/

/-- R69, R76 to R81: the placement step of a frame that no longer fits its entry, and the first five
checks, in their order; each refusal counts once and ends the dispatch. -/
def Obligations.PlacementRefusesBeforeTheTimeIsKnown : Prop :=
  ∀ (s : State) (d : Dispatch) (i : Nat) (e : Entry) (b : List Byte), s.AtRest →
    s.ingest.dispatch = some d → d.frame.kind = .measurement → i = d.source → e = s.entry i →
    b = d.frame.body →
    (e.state = .unused ∨ e.state = .retiring ∨ e.id ≠ d.frame.id →
      exec .placementStep s = .next (endDispatch (recordUnknown d.frame s))) ∧
    (e.state ≠ .unused → e.state ≠ .retiring → e.id = d.frame.id →
      (e.state = .suspended →
        exec .placementStep s = .next (endDispatch (s.countSource i fun c =>
          { c with suspendedDrops := min (c.suspendedDrops + 1) 4294967295 }))) ∧
      (e.state ≠ .suspended → e.links.get d.frame.link = false →
        exec .placementStep s = .next (endDispatch (s.countSource i fun c =>
          { c with wrongLink := min (c.wrongLink + 1) 4294967295 }))) ∧
      (e.state ≠ .suspended → e.links.get d.frame.link = true →
        (s.reporting.opState ≠ .running →
          exec .placementStep s = .next (endDispatch (s.countSource i fun c =>
            { c with notRunning := min (c.notRunning + 1) 4294967295 }))) ∧
        (s.reporting.opState = .running →
          b.length ≠ 18 + 5 * e.shape.phasors + 2 * e.shape.analogs →
          exec .placementStep s = .next (endDispatch (s.countSource i fun c =>
            { c with badShape := min (c.badShape + 1) 4294967295 }))) ∧
        (s.reporting.opState = .running →
          b.length = 18 + 5 * e.shape.phasors + 2 * e.shape.analogs →
          (15 < fieldAt b 9 1 ∨
            toGrains e.shape.timeBase (fieldAt b 2 4) (fieldAt b 6 3) = none ∨
            ∃ s' g, toGrains e.shape.timeBase (fieldAt b 2 4) (fieldAt b 6 3) = some (s', g) ∧
              nearestInstant s.grid.rate s' g = none) →
          exec .placementStep s = .next (endDispatch (s.countSource i fun c =>
            { c with badTime := min (c.badTime + 1) 4294967295 })))))

/-- R6, R7, R82 to R87: checks 6 to 11, in their order, for a sample that has passed the first five.
Sorting by R7's computation for every source rate is log 22. -/
def Obligations.PlacementRefusesByTheGridAndTheWindow : Prop :=
  ∀ (s : State) (d : Dispatch) (e : Entry) (i n : Nat) (δ : Int) (s' g : Nat)
    (duplicate : Prop), s.Places d e n δ s' g → i = d.source →
    (duplicate ↔
      (∃ h, s.window.horizon = some h ∧ n ≤ h) ∧ e.receipt.marked n = true ∨
      (∀ h, s.window.horizon = some h → h < n) ∧
        ∃ slot r, s.slot? n = some slot ∧ tableFind i slot.contributors = some r) →
    (e.options.tolerance < δ.natAbs →
      ((ownGridOffset e.shape.rate g).natAbs ≤ e.options.tolerance →
        exec .placementStep s = .next (endDispatch (s.countSource i fun c =>
          { c with decimated := min (c.decimated + 1) 4294967295 }))) ∧
      (e.options.tolerance < (ownGridOffset e.shape.rate g).natAbs →
        exec .placementStep s = .next (endDispatch (s.countSource i fun c =>
          { c with misaligned := min (c.misaligned + 1) 4294967295 })))) ∧
    (δ.natAbs ≤ e.options.tolerance →
      (duplicate →
        exec .placementStep s = .next (endDispatch (s.countSource i fun c =>
          { c with duplicate := min (c.duplicate + 1) 4294967295 }))) ∧
      (¬duplicate → (∃ h, s.window.horizon = some h ∧ n ≤ h) →
        exec .placementStep s = .next (endDispatch (s.countSource i fun c =>
          { c with late := min (c.late + 1) 4294967295 }))) ∧
      (¬duplicate → (∀ h, s.window.horizon = some h → h < n) →
        (s.time.grains / s.grid.period + s.grid.futureLimit < n →
          exec .placementStep s = .next (endDispatch (s.countSource i fun c =>
            { c with early := min (c.early + 1) 4294967295 }))) ∧
        (n ≤ s.time.grains / s.grid.period + s.grid.futureLimit →
          (s.slot? n = none → roomFor n s.window.slots = false →
            exec .placementStep s = .next (endDispatch
              ((s.countSource i fun c => { c with noSlot := min (c.noSlot + 1) 4294967295 }).countWindow
                fun c => { c with noSlot := min (c.noSlot + 1) 4294967295 }))) ∧
          (s.slot? n ≠ none ∨ roomFor n s.window.slots = true → s.window.freeRecords = 0 →
            ∀ u, u = s.countSource i
                (fun c => { c with storeFull := min (c.storeFull + 1) 4294967295 }) →
              (s.flag .storeExhausted = true →
                exec .placementStep s = .next (endDispatch u)) ∧
              (s.flag .storeExhausted = false →
                exec .placementStep s = .next (endDispatch
                  (raiseNotice .congestion (.source i) 0 (setFlag .storeExhausted u))))))))

/-- R9, R89, R90: what the record of an accepted sample holds. -/
def Obligations.RecordHoldsTheSample : Prop :=
  ∀ (i : Nat) (e : Entry) (b : List Byte) (p : SamplePoint) (r : SampleRecord) (applied : Prop),
    r = fillRecord i e b p →
    (applied ↔ e.options.reReference = true ∧ p.offset ≠ 0 ∧ fieldAt b 10 2 % 65536 < 32768) →
    r.source = i ∧ r.instant = p.instant ∧ r.offset = p.offset ∧ r.quality = fieldAt b 9 1 ∧
    r.status = BitVec.ofNat 16 (fieldAt b 10 2) ∧
    r.frequency = BitVec.ofNat 16 (orderedField e.shape.order b 14 2) ∧
    r.rocof = BitVec.ofNat 16 (orderedField e.shape.order b 16 2) ∧
    r.phasors.length = e.shape.phasors ∧ r.analogs.length = e.shape.analogs ∧
    (∀ k x, r.phasors[k]? = some x →
      x.magnitude = BitVec.ofNat 24 (orderedField e.shape.order b (18 + 5 * k) 3) ∧
      (applied → x.angle =
        rotate (BitVec.ofNat 16 (orderedField e.shape.order b (21 + 5 * k) 2))
          (rotation r.frequency.toInt p.offset)) ∧
      (¬applied → x.angle = BitVec.ofNat 16 (orderedField e.shape.order b (21 + 5 * k) 2))) ∧
    (∀ k x, r.analogs[k]? = some x →
      x = BitVec.ofNat 16 (orderedField e.shape.order b (18 + 5 * e.shape.phasors + 2 * k) 2)) ∧
    (r.invalid = true ↔ 32768 ≤ fieldAt b 10 2 % 65536) ∧
    (r.poorTime = true ↔
      e.options.qualityLimit < fieldAt b 9 1 ∨ 16384 ≤ fieldAt b 10 2 % 32768) ∧
    (r.reReferenced = true ↔ applied) ∧
    (r.unReferenced = true ↔ p.offset ≠ 0 ∧ ¬applied)

/-- R29, R88, R91 to R95: a sample that passes every check takes a free record, joins the slot of its instant,
opened if there is none, and updates its entry; the evaluations of R95 follow, and the dispatch ends. A
slot that the step opens at or past its deadline expires at once after it, as DEADLINE_EXPIRY does,
unless the step has closed it or local time is stopped (R29). -/
def Obligations.AcceptedSampleJoinsItsSlot : Prop :=
  (∀ (x : State) (n now : Nat), now = x.time.second * 6000000 + x.time.fraction →
    (∀ slot, x.AtRest → x.slot? n = some slot → slot.unclosed = true → slot.overdue = false →
      x.time.stopped = false → slot.deadline ≤ now →
      exec (.deadlineExpiry n) x = .next (expireOpened n x)) ∧
    ((∀ slot, x.slot? n = some slot → slot.unclosed = false ∨ slot.overdue = true ∨
        x.time.stopped = true ∨ now < slot.deadline) → expireOpened n x = x)) ∧
  ∀ (s : State) (d : Dispatch) (e e' : Entry) (i n : Nat) (δ : Int) (s' g : Nat) (r : SampleRecord)
    (u v w : State), s.Places d e n δ s' g → i = d.source →
    δ.natAbs ≤ e.options.tolerance → (∀ h, s.window.horizon = some h → h < n) →
    n ≤ s.time.grains / s.grid.period + s.grid.futureLimit → 0 < s.window.freeRecords →
    r = fillRecord i e d.frame.body ⟨n, δ, s' * 6000000 + g⟩ →
    e' = { e with
      receipt := Receipt.enter n e.receipt
      latency := nextLatency e.latency (measuredLatency
        (d.frame.stampSecond * 6000000 + d.frame.stampFraction) (s' * 6000000 + g))
      state := .active
      missCount := 0
      counters := { e.counters with accepted := min (e.counters.accepted + 1) 4294967295 } } →
    w = (if e.state = .stalled then raiseSource i .recovered v else v) →
    (∀ slot, s.slot? n = some slot → tableFind i slot.contributors = none →
      v = { s with
        sources := tableInsert i e' s.sources
        window := { s.window with
          freeRecords := s.window.freeRecords - 1
          slots := tableInsert n { slot with contributors := tableInsert i r slot.contributors }
            s.window.slots } } →
      exec .placementStep s = .next (endDispatch (evaluatePressure (evaluatePlaced n w)))) ∧
    (s.slot? n = none → roomFor n s.window.slots = true →
      u = { s with window := { s.window with
        freeRecords := s.window.freeRecords - 1
        slots := tableInsert n
          { state := .opened, opener := .arrival, contributors := [(i, r)],
            deadline := n * s.grid.period +
              (if s.window.config.wait = .fixed then waitGrains s.window.config.fixedCode
               else min (max (lmax s.sources + s.window.config.margin) s.window.config.minWait)
                 (waitGrains s.window.config.capCode)), closeReason := none, overdue := false } s.window.slots
        counters := { s.window.counters with
          openedByArrival := min (s.window.counters.openedByArrival + 1) 4294967295 } } } →
      v = { u with sources := tableInsert i e' s.sources } →
      exec .placementStep s =
        .next (expireOpened n (endDispatch (evaluatePressure (evaluatePlaced n w)))))

/-- R69 to R71: the handling of a description: its checks in their order, and what a changed shape does. -/
def Obligations.DescriptionIsCheckedAndApplied : Prop :=
  ∀ (s u : State) (d : Dispatch) (i : Nat) (e : Entry) (b : List Byte) (h : SourceShape)
    (valid : Prop), s.AtRest → s.ingest.dispatch = some d → d.frame.kind = .description →
    i = d.source → e = s.entry i → b = d.frame.body →
    (valid ↔ b.length = 10 ∧ fieldAt b 2 1 = s.grid.f0 ∧ fieldAt b 3 1 ∈ rateFamily s.grid.f0 ∧
      1 ≤ fieldAt b 4 3 ∧ fieldAt b 7 1 ≤ 15 ∧ fieldAt b 8 1 ≤ 8 ∧ fieldAt b 9 1 ≤ 1) →
    h = { rate := fieldAt b 3 1, timeBase := fieldAt b 4 3, phasors := fieldAt b 7 1 + 1,
          analogs := fieldAt b 8 1, order := if fieldAt b 9 1 = 0 then .big else .little } →
    (e.state = .unused ∨ e.state = .retiring ∨ e.id ≠ d.frame.id →
      exec .descriptionHandling s = .next (endDispatch (recordUnknown d.frame s))) ∧
    (e.state ≠ .unused → e.state ≠ .retiring → e.id = d.frame.id →
      (e.links.get d.frame.link = false →
        exec .descriptionHandling s = .next (endDispatch (s.countSource i fun c =>
          { c with wrongLink := min (c.wrongLink + 1) 4294967295 }))) ∧
      (e.links.get d.frame.link = true → e.options.remoteAllowed = false →
        exec .descriptionHandling s = .next (endDispatch (s.countSource i fun c =>
          { c with remoteRefused := min (c.remoteRefused + 1) 4294967295 }))) ∧
      (e.links.get d.frame.link = true → e.options.remoteAllowed = true →
        (¬valid →
          exec .descriptionHandling s = .next (endDispatch (s.countSource i fun c =>
            { c with badDescription := min (c.badDescription + 1) 4294967295 }))) ∧
        (valid → e.shape = h →
          exec .descriptionHandling s = .next (endDispatch (s.countSource i fun c =>
            { c with descriptions := min (c.descriptions + 1) 4294967295 }))) ∧
        (valid → e.shape ≠ h →
          u = { s with
            sources := tableInsert i
              { e with
                shape := h
                state := if e.state = .suspended then .suspended else .declared
                missCount := 0
                heldCount := 0
                counters :=
                  { e.counters with descriptions := min (e.counters.descriptions + 1) 4294967295 } }
              s.sources
            assembler :=
              { s.assembler with holdBank := tableErase i s.assembler.holdBank } } →
          (e.state = .active →
            exec .descriptionHandling s =
              .next (endDispatch (reevaluate (raiseSource i .shapeChanged u)))) ∧
          (e.state ≠ .active →
            exec .descriptionHandling s =
              .next (endDispatch (raiseSource i .shapeChanged u))))))

/-! ## The window's closes, the Assembler and the release side -/

/-- R59, R104, R105, R107: an OPEN slot becomes READY at an evaluation exactly when some ACTIVE required
source is expected at its instant and every such source is in its contributor list; no other slot
changes. A re-evaluation, and the evaluation of one slot after a placement, are followed by the walk and
the take where they make a slot READY. In EARLY mode while RUNNING, the completion walk closes an
unclosed slot above the horizon with COMPLETE exactly when every instant from the horizon up to it holds
a READY slot, or no unclosed slot and is at or below the cadence mark; it makes these closes oldest
first, closes nothing else, and leaves every other slot as it was; in another mode or state it does
nothing. The walk before the take is the model's order (log 10). -/
def Obligations.CompletionIsEvaluatedAndWalkedInInstantOrder : Prop :=
  ∀ (s : State) (awaits : Nat × Entry → Nat → Prop) (complete : Nat → Slot → Prop),
    tableSorted s.window.slots →
    (∀ p n, awaits p n ↔ p.2.state = .active ∧ p.2.options.required = true ∧
      n % s.grid.rate * p.2.shape.rate % s.grid.rate = 0) →
    (∀ n slot, complete n slot ↔ slot.state = .opened ∧ (∃ p ∈ s.sources, awaits p n) ∧
      ∀ p ∈ s.sources, awaits p n → ∃ r, tableFind p.1 slot.contributors = some r) →
    (∀ k slot, s.slot? k = some slot →
      (complete k slot →
        (evaluateAll s).1.slot? k = some { slot with state := .ready } ∧
        evaluatePlaced k s = settle { s with window := { s.window with
          slots := tableInsert k { slot with state := .ready } s.window.slots } }) ∧
      (¬complete k slot →
        (evaluateAll s).1.slot? k = some slot ∧ evaluatePlaced k s = s)) ∧
    (∀ k, s.slot? k = none → (evaluateAll s).1.slot? k = none ∧ evaluatePlaced k s = s) ∧
    (evaluateAll s).1 =
      { s with window := { s.window with slots := (evaluateAll s).1.window.slots } } ∧
    ((∃ k slot, s.slot? k = some slot ∧ complete k slot) →
      reevaluate s = settle (evaluateAll s).1) ∧
    ((∀ k slot, s.slot? k = some slot → ¬complete k slot) → reevaluate s = s) ∧
    (s.window.config.mode ≠ .early ∨ s.reporting.opState ≠ .running ∨ s.window.horizon = none →
      completionWalk s = s) ∧
    (∀ (h : Nat) (reached : Nat → Prop), s.window.config.mode = .early →
      s.reporting.opState = .running → s.window.horizon = some h →
      (∀ k, reached k ↔ h < k ∧ (∃ v, s.slot? k = some v ∧ v.state = .ready) ∧
        ∀ x, h < x → x < k →
          (∃ v, s.slot? x = some v ∧ v.state = .ready) ∨
          (∀ v, s.slot? x = some v → v.unclosed = false) ∧
            ∃ m, s.time.cadenceMark = some m ∧ x ≤ m) →
      (∀ k slot, s.slot? k = some slot →
        (reached k → (completionWalk s).slot? k =
          some { slot with state := .closed, closeReason := some .complete }) ∧
        (¬reached k → (completionWalk s).slot? k = some slot)) ∧
      (∀ closes : List Nat, closes.Pairwise (· < ·) → (∀ k, k ∈ closes ↔ reached k) →
        completionWalk s = closes.foldl (fun w k => closeSlot k .complete w) s))

/-- R98, R100, R106, R111, R115, R118: the close of an unclosed slot; a slot that is not unclosed is passed
over. Store pressure holds while the free and the reclaimable records are below the low-water mark and
an unclosed slot stands at or below the current local instant. While it holds, its evaluation sets the
fault, closes the oldest unclosed slot with PRESSURE, with what follows a close, and tests again; when
it ends, pressure no longer holds. The walk and the take that follow each close are log 10. -/
def Obligations.ClosesQueueTheSlotAndPressureRepeatsThem : Prop :=
  (∀ slot : Slot, slot.unclosed = true ↔ slot.state = .opened ∨ slot.state = .ready) ∧
  (∀ (s : State) (k : Nat) (r : CloseReason),
    (s.slot? k = none → closeSlot k r s = s) ∧
    ∀ slot, s.slot? k = some slot →
      (slot.unclosed = false → closeSlot k r s = s) ∧
      (slot.unclosed = true → ∀ c : WindowCounters, c = s.window.counters →
        closeSlot k r s = { s with window := { s.window with
          slots := tableInsert k { slot with state := .closed, closeReason := some r } s.window.slots
          assemblyQueue := s.window.assemblyQueue ++ [k]
          horizon := some k
          counters := match r with
            | .complete => { c with closedComplete := min (c.closedComplete + 1) 4294967295 }
            | .deadline => { c with closedDeadline := min (c.closedDeadline + 1) 4294967295 }
            | .demand => { c with closedDemand := min (c.closedDemand + 1) 4294967295 }
            | .pressure => { c with closedPressure := min (c.closedPressure + 1) 4294967295 }
            | .overrun => { c with closedOverrun := min (c.closedOverrun + 1) 4294967295 }
            | .stop => { c with closedStop := min (c.closedStop + 1) 4294967295 } } })) ∧
  ∀ (s : State) (k : Nat) (slot : Slot), tableSorted s.window.slots →
    s.reclaimable = ((s.window.slots.filter fun p =>
      decide (p.2.state = .closed ∨ p.2.state = .assembling)).map fun p =>
        p.2.contributors.length).sum ∧
    (s.pressureHolds = true ↔
      s.window.freeRecords + s.reclaimable < s.window.config.lowWater ∧
      ∃ j v, s.slot? j = some v ∧ v.unclosed = true ∧
        j ≤ (s.time.second * 6000000 + s.time.fraction) / s.grid.period) ∧
    (evaluatePressure s).pressureHolds = false ∧
    (s.pressureHolds = false → evaluatePressure s = s) ∧
    (s.pressureHolds = true → s.slot? k = some slot → slot.unclosed = true →
      (∀ j v, s.slot? j = some v → v.unclosed = true → k ≤ j) →
      evaluatePressure s =
        evaluatePressure (settle (setFlag .pressure (closeSlot k .pressure s))) ∧
      (evaluatePressure s).flag .pressure = true ∧
      ∃ v, (evaluatePressure s).slot? k = some v ∧ v.unclosed = false ∧
        v.closeReason = some .pressure ∧ v.contributors = slot.contributors)

/-- R125 to R130: the disposition of a visited entry, and what it does to the entry; the pass at one
entry, with the hold record a PRESENT sample becomes and the SOURCE notice and re-evaluation that a
stall asks for; and the pass over the whole Source Table, in source index order. -/
def Obligations.DispositionPassVisitsEveryEntryOnce : Prop :=
  (∀ (rate n : Nat) (e : Entry) (hold : Option SampleRecord) (expected miss stall : Prop),
    e.visited = true → (expected ↔ n % rate * e.shape.rate % rate = 0) →
    (miss ↔ e.state = .active ∧ expected ∧ ∀ x, e.receipt.newest = some x → x < n) →
    (stall ↔ miss ∧ e.missCount + 1 = e.options.stallThreshold) →
    (∀ r, e.dispose rate n (some r) hold = ({ e with heldCount := 0 }, .present r)) ∧
    ∀ (e' : Entry) (d : Disposition), e.dispose rate n none hold = (e', d) →
      (miss → e'.missCount = e.missCount + 1) ∧ (¬miss → e'.missCount = e.missCount) ∧
      (stall → e'.state = .stalled ∧
        e'.counters.stalls = min (e.counters.stalls + 1) 4294967295) ∧
      (¬stall → e'.state = e.state ∧ e'.counters.stalls = e.counters.stalls) ∧
      (∀ r, (e.state = .active ∨ e.state = .stalled) → e.options.holdPolicy = .hold →
        hold = some r →
        (expected → e.heldCount < e.options.holdLimit →
          d = .held r ∧ e'.heldCount = e.heldCount + 1 ∧
          e'.counters.held = min (e.counters.held + 1) 4294967295 ∧
          e'.counters.absent = e.counters.absent) ∧
        (expected → e.options.holdLimit ≤ e.heldCount →
          d = .absent ∧ e'.heldCount = e.heldCount ∧ e'.counters.held = e.counters.held ∧
          e'.counters.absent = min (e.counters.absent + 1) 4294967295) ∧
        (¬expected → d = .held r ∧ e' = e)) ∧
      (e.state = .declared ∨ e.state = .suspended ∨ e.options.holdPolicy = .absent ∨ hold = none →
        (expected → d = .absent) ∧ (¬expected → d = .notExpected) ∧
        e'.heldCount = e.heldCount ∧ e'.counters.held = e.counters.held ∧
        e'.counters.absent = e.counters.absent) ∧
      e'.id = e.id ∧ e'.links = e.links ∧ e'.shape = e.shape ∧ e'.options = e.options ∧
      e'.latency = e.latency ∧ e'.receipt = e.receipt) ∧
  (∀ e : Entry, e.visited = true ↔ e.state ≠ .unused ∧ e.state ≠ .retiring) ∧
  (∀ (s u : State) (n i : Nat) (c : Table SampleRecord) (m : Bool) (e e' : Entry)
    (d : Disposition) (bank : Table SampleRecord), e = s.entry i →
    e.dispose s.grid.rate n (tableFind i c) (s.hold? i) = (e', d) →
    (e.visited = false → visitEntry n c (s, m) i = (s, m)) ∧
    (e.visited = true →
      (∀ r, tableFind i c = some r → r.phasors.length = e.shape.phasors →
        r.analogs.length = e.shape.analogs → bank = tableInsert i r s.assembler.holdBank) →
      ((∀ r, tableFind i c = some r → r.phasors.length ≠ e.shape.phasors ∨
        r.analogs.length ≠ e.shape.analogs) → bank = s.assembler.holdBank) →
      u = { s with
        sources := tableInsert i e' s.sources
        assembler := { s.assembler with
          dispositions := s.assembler.dispositions ++ [⟨i, e.id, d⟩], holdBank := bank } } →
      (e.state = .active → e'.state = .stalled →
        visitEntry n c (s, m) i = (raiseNotice .source (.source i) 0 u, true)) ∧
      (e.state ≠ .active ∨ e'.state ≠ .stalled → visitEntry n c (s, m) i = (u, m)))) ∧
  (∀ (s t : State) (n : Nat) (c : Table SampleRecord) (m : Bool), tableSorted s.sources →
    s.assembler.dispositions = [] → dispositionPass n c s = (t, m) →
    t.assembler.dispositions.map (·.source) =
      (s.sources.filter fun p => p.2.visited).map (·.1) ∧
    (∀ i, (s.entry i).visited = false → t.entry i = s.entry i ∧ t.hold? i = s.hold? i) ∧
    (∀ (i : Nat) (e e' : Entry) (d : Disposition), e = s.entry i → e.visited = true →
      e.dispose s.grid.rate n (tableFind i c) (s.hold? i) = (e', d) →
      t.entry i = e' ∧ t.dispositionOf i = some ⟨i, e.id, d⟩ ∧
      (∀ r, tableFind i c = some r → r.phasors.length = e.shape.phasors →
        r.analogs.length = e.shape.analogs → t.hold? i = some r) ∧
      ((∀ r, tableFind i c = some r → r.phasors.length ≠ e.shape.phasors ∨
        r.analogs.length ≠ e.shape.analogs) → t.hold? i = s.hold? i)) ∧
    (m = true ↔ ∃ i, (s.entry i).state = .active ∧ (t.entry i).state = .stalled) ∧
    t.window = s.window ∧ t.views = s.views ∧ t.assembler.current = s.assembler.current)

/-- R113, R121, R128, R138: an idle Assembler takes the oldest closed slot: the take, the boundary switch
at index 0 of a second, the disposition pass, the views; a stall in the pass then asks for the
re-evaluation, and for the walk where that makes a slot READY (the order is the model's, log 10). The
boundary switch goes through the views in index order, takes every staged descriptor whose effective
second the second has reached, with the VIEW notice of its new revision and whether the view was
retired (R187), and leaves every other view as it was. -/
def Obligations.TakeSwitchesDueViewsAndMakesThePass : Prop :=
  (∀ (s : State) (second : Nat),
    boundarySwitch second s =
      [ViewId.v0, .v1, .v2, .v3, .v4, .v5, .v6, .v7].foldl (switchView second) s ∧
    ∀ v : ViewId,
      (∀ st, (s.view v).staged = some st → st.effectiveSecond = 0 ∨ st.effectiveSecond ≤ second →
        switchView second s v = raiseNotice .view (.view v)
          (((s.view v).revision + 1).toNat * 256 + if st.content = none then 1 else 0)
          (s.modifyView v fun w =>
            { w with current := st.content, staged := none, revision := w.revision + 1 })) ∧
      ((s.view v).staged = none ∨
          (∃ st, (s.view v).staged = some st ∧ 0 < st.effectiveSecond ∧
            second < st.effectiveSecond) →
        switchView second s v = s)) ∧
  (∀ (s : State) (second : Nat) (v : ViewId),
    (∀ st, (s.view v).staged = some st → st.effectiveSecond = 0 ∨ st.effectiveSecond ≤ second →
      (boundarySwitch second s).view v =
        { s.view v with
          current := st.content, staged := none, revision := (s.view v).revision + 1 }) ∧
    ((s.view v).staged = none ∨
        (∃ st, (s.view v).staged = some st ∧ 0 < st.effectiveSecond ∧ second < st.effectiveSecond) →
      (boundarySwitch second s).view v = s.view v)) ∧
  (∀ s : State, settle s = takeAndReevaluate (completionWalk s) ∧
    (s.assembler.current ≠ none ∨ s.window.assemblyQueue = [] → takeAndReevaluate s = s)) ∧
  (∀ (s u v w : State) (n : Nat) (rest : List Nat) (slot : Slot) (p : State × Bool),
    tableSorted s.window.slots → s.assembler.current = none →
    s.window.assemblyQueue = n :: rest → s.slot? n = some slot →
    u = { s with
      window := { s.window with
        assemblyQueue := rest
        slots := tableInsert n { slot with state := .assembling } s.window.slots }
      assembler := { s.assembler with current := some n, dispositions := [] } } →
    v = (if n % s.grid.rate = 0 then boundarySwitch (n / s.grid.rate) u else u) →
    p = dispositionPass n slot.contributors v → w = considerViews n ViewId.all p.1 →
    (p.2 = false → takeAndReevaluate s = w) ∧
    (p.2 = true →
      ((∃ k a b, w.slot? k = some a ∧ (evaluateAll w).1.slot? k = some b ∧ a ≠ b) →
        takeAndReevaluate s = completionWalk (evaluateAll w).1) ∧
      ((∀ k, (evaluateAll w).1.slot? k = w.slot? k) → takeAndReevaluate s = w)))

/-- R141: of the views left to consider, the first whose divisor selects the instant, and which is not
held back as incomplete, is built next; a complete-only view passed over before it is counted. The next
view, as the one whose SET is being built, is the model's (log 18). -/
def Obligations.ViewsAreConsideredInOrder : Prop :=
  ∀ (n : Nat) (views : List ViewId) (s t : State) (selects lacks : ViewId → Prop), views.Nodup →
    t = considerViews n views s →
    (∀ v, selects v ↔ ∃ d, (s.view v).current = some d ∧ n % s.grid.rate % d.divisor = 0) →
    (∀ v, lacks v ↔ ∃ d, (s.view v).current = some d ∧ d.completeOnly = true ∧
      ∃ e ∈ d.sources, ∀ r rec, s.dispositionOf e.source = some r → r.disposition ≠ .present rec) →
    (t.assembler.nextView = none → ∀ v ∈ views, selects v → lacks v) ∧
    (∀ v, t.assembler.nextView = some v →
      ∃ before after, views = before ++ v :: after ∧ selects v ∧ ¬lacks v ∧
        ∀ w ∈ before, selects w → lacks w) ∧
    (∀ before after, views = before ++ after →
      t.assembler.nextView = after.head? →
      (∀ w ∈ before, selects w → lacks w → t.view w =
        { s.view w with skippedIncomplete := min ((s.view w).skippedIncomplete + 1) 4294967295 }) ∧
      (∀ w, w ∉ before ∨ ¬selects w ∨ ¬lacks w → t.view w = s.view w))

/-- R133, R142 to R144, R187: the whole SET carries the header of its view and instant, goes to the view's
destination, is counted, and the views after it are considered; what the header carries as bytes, before
the entries; and what each entry carries, field by field, in the view's byte order. That the SET is taken at its hand-over is the model's (log
18). -/
def Obligations.WholeSetIsHandedOver : Prop :=
  (∀ (s : State) (n : Nat) (v : ViewId) (d : Descriptor) (slot : Slot) (reason : CloseReason)
    (o : OutSet), s.AtRest → s.assembler.current = some n →
    s.assembler.nextView = some v → (s.view v).current = some d → s.slot? n = some slot →
    slot.closeReason = some reason →
    o = { tag := d.tag, revision := (s.view v).revision, second := n / s.grid.rate,
          index := n % s.grid.rate, reason := reason, quality := s.time.quality,
          entryCount := d.sources.length,
          entries := d.sources.flatMap fun e =>
            (s.dispositionOf e.source).elim [] (setEntryBytes d e) } →
    exec .setHandover s = .next (considerViews n v.after
      ((handOver d.destination o s).modifyView v fun w =>
        { w with setsBuilt := min (w.setsBuilt + 1) 4294967295 }))) ∧
  (∀ o : OutSet,
    carries [(1, some o.tag), (2, some o.revision.toNat), (4, some o.second), (1, some o.index),
      (1, some o.reason.code), (1, some o.quality.code), (1, some (o.entryCount - 1))]
      ((setBody o).take 11) ∧
    (setBody o).drop 11 = o.entries) ∧
  (∀ (d : Descriptor) (e : ListEntry) (i : Nat) (id : Word16) (x : Disposition) (b : List Byte),
    b = setEntryBytes d e ⟨i, id, x⟩ →
    orderedField d.order b 0 2 = id.toNat ∧
    (x = .absent → b.length = 3 ∧ fieldAt b 2 1 = 2) ∧
    (x = .notExpected → b.length = 3 ∧ fieldAt b 2 1 = 3) ∧
    (∀ (r : SampleRecord) (held short : Bool) (w base : Nat) (phasors analogs : List Nat),
      (held = false ∧ x = .present r ∨ held = true ∧ x = .held r) →
      w = (if d.magnitudeForm = .m24 then 3 else 2) →
      base = (if d.includeFrequency then 14 else 10) →
      phasors.Pairwise (· < ·) → (∀ k, k ∈ phasors ↔ e.phasors.getLsbD k = true) →
      analogs.Pairwise (· < ·) → (∀ k, k ∈ analogs ↔ e.analogs.getLsbD k = true) →
      (short = true ↔
        (∃ k ∈ phasors, r.phasors.length ≤ k) ∨ ∃ k ∈ analogs, r.analogs.length ≤ k) →
      b.length = base + (2 + w) * phasors.length + 2 * analogs.length ∧
      fieldAt b 2 1 = (if held then 1 else 0) ∧
      fieldAt b 3 1 = (if r.invalid then 1 else 0) + (if r.poorTime then 2 else 0) +
        (if r.reReferenced then 4 else 0) + (if r.unReferenced then 8 else 0) +
        (if held then 16 else 0) + (if short then 32 else 0) ∧
      (orderedField d.order b 4 3 : Int) =
        max (-8388608) (min 8388607 r.offset) % 16777216 ∧
      fieldAt b 7 1 = r.quality % 256 ∧
      orderedField d.order b 8 2 = r.status.toNat ∧
      (d.includeFrequency = true → orderedField d.order b 10 2 = r.frequency.toNat ∧
        orderedField d.order b 12 2 = r.rocof.toNat) ∧
      (∀ j k o, phasors[j]? = some k → o = base + (2 + w) * j →
        (∀ p, r.phasors[k]? = some p →
          orderedField d.order b o 2 = outAngle d.angleForm p.angle ∧
          orderedField d.order b (o + 2) w = outMagnitude d.magnitudeForm d.shift p.magnitude) ∧
        (r.phasors.length ≤ k →
          orderedField d.order b o 2 = 0 ∧ orderedField d.order b (o + 2) w = 0)) ∧
      (∀ j k o, analogs[j]? = some k → o = base + (2 + w) * phasors.length + 2 * j →
        (∀ a, r.analogs[k]? = some a → orderedField d.order b o 2 = a.toNat) ∧
        (r.analogs.length ≤ k → orderedField d.order b o 2 = 0))))

/-- R146, R148, R149, R151, R164: a SET handed to a disabled link is counted and gone; under INHIBIT it
passes the head; below 32 it joins the tail; at 32 the oldest not in transmission makes room, with the
fault. A Release Link whose queue was empty looks at its BUSY pin; the Command Link is never disabled,
and after a SET has joined its queue the line chooses, if it is idle. -/
def Obligations.HandOverAppendsOrMakesRoom : Prop :=
  ∀ (s : State) (l : RelId) (o : OutSet) (p : Destination) (q : ReleaseQueue),
    q = s.release.queue p →
    (p = l.destination → s.enabled l = false →
      handOver p o s = s.modifyQueue p fun _ =>
        { q with counters :=
          { q.counters with disabledDrops := min (q.counters.disabledDrops + 1) 4294967295 } }) ∧
    (p = .cl ∨ p = l.destination ∧ s.enabled l = true →
      s.pins.inhibit = true → q.sending = false →
      handOver p o s = s.modifyQueue p fun _ =>
        { q with sets := [], counters :=
          { q.counters with
            queued := min (q.counters.queued + 1) 4294967295
            inhibitedDrops :=
              min (q.counters.inhibitedDrops + (q.sets.length + 1)) 4294967295 } }) ∧
    (p = l.destination → s.enabled l = true → s.pins.inhibit = false → q.sets.length < 32 →
      handOver p o s = s.modifyQueue p fun _ =>
        { q with
          sets := q.sets ++ [o]
          sending := q.sending || (decide (q.sets = []) && !s.busy l)
          counters := { q.counters with queued := min (q.counters.queued + 1) 4294967295 } }) ∧
    (p = .cl → s.pins.inhibit = false → q.sets.length < 32 →
      handOver p o s = transmitChoice (s.modifyQueue p fun _ =>
        { q with
          sets := q.sets ++ [o]
          counters := { q.counters with queued := min (q.counters.queued + 1) 4294967295 } })) ∧
    (p = .cl ∨ p = l.destination ∧ s.enabled l = true → s.pins.inhibit = false →
      ∀ first second rest, q.sets = first :: second :: rest → rest.length = 30 →
      ∀ u v, u = s.modifyQueue p (fun _ =>
        { q with
          sets := (if q.sending then first :: rest else second :: rest) ++ [o]
          counters := { q.counters with
            dropped := min (q.counters.dropped + 1) 4294967295
            queued := min (q.counters.queued + 1) 4294967295 } }) →
      v = (if s.flag .releaseDrop then u
        else raiseNotice .congestion (.queue p) 3 (setFlag .releaseDrop u)) →
      handOver p o s = if p = .cl then transmitChoice v else v)

/-- R99, R113, R123: the end of an assembly frees the slot's records, takes it out of the map, ends the
retirements it completes, and empties the Assembler, which then takes the next closed slot; the drain
may end. The window base is the oldest slot in the map, absent where there is none (R99). What an UNUSED
entry keeps is the model's (log 5). -/
def Obligations.AssemblyEndReleasesTheSlot : Prop :=
  (∀ s : State, tableSorted s.window.slots →
    (s.windowBase = none ↔ ∀ k, s.slot? k = none) ∧
    ∀ n, s.windowBase = some n ↔
      s.slot? n ≠ none ∧ ∀ k, s.slot? k ≠ none → n ≤ k) ∧
  ∀ (s : State) (n : Nat) (slot : Slot), s.AtRest → s.assembler.current = some n →
    s.assembler.nextView = none → s.slot? n = some slot →
    ∃ u, exec .assemblyEnd s = .next (drainEnd (takeAndReevaluate u)) ∧
      u.slot? n = none ∧ (∀ k, k ≠ n → u.slot? k = s.slot? k) ∧
      u.window.freeRecords = s.window.freeRecords + slot.contributors.length ∧
      u.window.assemblyQueue = s.window.assemblyQueue ∧ u.window.horizon = s.window.horizon ∧
      u.window.counters = s.window.counters ∧ u.window.config = s.window.config ∧
      u.assembler.current = none ∧ u.assembler.dispositions = [] ∧
      u.assembler.nextView = none ∧
      (∀ i, ((s.entry i).state = .retiring ∧ ∃ x, (s.entry i).receipt.newest = some x ∧ x ≤ n) →
        u.entry i = { Entry.unused with counters := (s.entry i).counters } ∧ u.hold? i = none) ∧
      (∀ i, ((s.entry i).state ≠ .retiring ∨ ∀ x, (s.entry i).receipt.newest = some x → n < x) →
        u.entry i = s.entry i ∧ u.hold? i = s.hold? i) ∧
      u = { s with sources := u.sources, window := u.window, assembler := u.assembler }

/-- R147, R148: the state of a Release Link and the frame on its line; the end of a SET's transmission, and
the two changes of a BUSY pin. A SET waits with none in transmission only where the link found BUSY
asserted (log 4). -/
def Obligations.ReleaseLinksSendBetweenBusyLooks : Prop :=
  (∀ (s : State) (l : RelId) (q : ReleaseQueue), q = s.release.queue l.destination →
    (s.linkState l = .disabled ↔ s.enabled l = false) ∧
    (s.linkState l = .inhibited ↔ s.enabled l = true ∧ s.pins.inhibit = true) ∧
    (s.linkState l = .sending ↔
      s.enabled l = true ∧ s.pins.inhibit = false ∧ q.sending = true) ∧
    (s.linkState l = .paused ↔
      s.enabled l = true ∧ s.pins.inhibit = false ∧ q.sending = false ∧ q.sets ≠ []) ∧
    (q.sending = false → s.releaseLineFrame l = none) ∧
    (∀ o rest, q.sending = true → q.sets = o :: rest →
      s.releaseLineFrame l = some (frameBytes 0x13#8 (setBody o)))) ∧
  ∀ (s : State) (l : RelId) (q : ReleaseQueue), s.AtRest →
    q = s.release.queue l.destination →
    exec (.busyAssert l) s = .next (s.setBusy l true) ∧
    (∀ o rest, s.enabled l = true → s.pins.inhibit = false → q.sending = true → q.sets = o :: rest →
      exec (.transmissionEnd l) s = .next (s.modifyQueue l.destination fun _ =>
        { sets := rest
          sending := !rest.isEmpty && !s.busy l
          counters := { q.counters with sent := min (q.counters.sent + 1) 4294967295 } })) ∧
    (s.enabled l = true → s.pins.inhibit = false → q.sending = false → q.sets ≠ [] →
      exec (.busyDeassert l) s = .next ((s.setBusy l false).modifyQueue l.destination fun _ =>
        { q with sending := true })) ∧
    (s.enabled l = false ∨ s.pins.inhibit = true ∨ q.sending = true ∨ q.sets = [] →
      exec (.busyDeassert l) s = .next (s.setBusy l false))

/-- R149, R164: INHIBIT cuts what is in transmission and discards every SET; the Command Link, whose SET
may have been cut, then chooses what it sends; a deassertion changes the pin alone. -/
def Obligations.InhibitEmptiesTheReleaseQueues : Prop :=
  ∀ s : State, s.AtRest →
    (∃ u, exec .inhibitAssert s = .next (transmitChoice u) ∧
      u = { s with pins := { s.pins with inhibit := true }, release := u.release } ∧
      u.release.enabled0 = s.release.enabled0 ∧ u.release.enabled1 = s.release.enabled1 ∧
      ∀ (d : Destination) (q : ReleaseQueue), q = s.release.queue d →
        (u.release.queue d).sets = [] ∧
        (q.sending = false → u.release.queue d =
          { q with sets := [], counters :=
            { q.counters with
              inhibitedDrops := min (q.counters.inhibitedDrops + q.sets.length) 4294967295 } }) ∧
        (∀ o rest, q.sending = true → q.sets = o :: rest → u.release.queue d =
          { sets := [], sending := false, counters :=
            { q.counters with
              cut := min (q.counters.cut + 1) 4294967295
              inhibitedDrops := min (q.counters.inhibitedDrops + rest.length) 4294967295 } })) ∧
    exec .inhibitDeassert s = .next { s with pins := { s.pins with inhibit := false } }

/-- R152: CONFIGURE_RELEASE_LINK keeps, enables or disables each link, and refuses any other setting;
disabling an enabled link cuts its transmission and flushes its queue; the reply carries switch and
state of both. The reply's codes are log 8. -/
def Obligations.ReleaseLinkSettingsSwitchAndFlush : Prop :=
  ∀ (s : State) (r : Request) (rest : List Request) (a b : Byte), s.Executes 18 r rest →
    r.fields = [a, b] →
    (2 < a.toNat ∨ 2 < b.toNat →
      exec .configureReleaseLink s = .next (finishRequest r .badField [] s)) ∧
    (a.toNat ≤ 2 → b.toNat ≤ 2 →
      ∃ t, exec .configureReleaseLink s = .next (finishRequest r .ok
          [if t.enabled .rl0 then 0#8 else 1#8, BitVec.ofNat 8 (t.linkState .rl0).code,
           if t.enabled .rl1 then 0#8 else 1#8, BitVec.ofNat 8 (t.linkState .rl1).code] t) ∧
        t = { s with release := t.release } ∧
        t.release.commandQueue = s.release.commandQueue ∧
        ∀ (l : RelId) (c : Byte) (q : ReleaseQueue), c = (if l = .rl0 then a else b) →
          q = s.release.queue l.destination →
          (c.toNat = 0 → t.enabled l = s.enabled l ∧ t.release.queue l.destination = q) ∧
          (c.toNat = 1 → t.enabled l = true ∧ t.release.queue l.destination = q) ∧
          (c.toNat = 2 → t.enabled l = false ∧
            (s.enabled l = false → t.release.queue l.destination = q) ∧
            (s.enabled l = true → (t.release.queue l.destination).sets = [] ∧
              (q.sending = false → t.release.queue l.destination =
                { q with sets := [], counters :=
                  { q.counters with
                    flushed := min (q.counters.flushed + q.sets.length) 4294967295 } }) ∧
              (∀ o others, q.sending = true → q.sets = o :: others →
                t.release.queue l.destination =
                  { sets := [], sending := false, counters :=
                    { q.counters with
                      cut := min (q.counters.cut + 1) 4294967295
                      flushed := min (q.counters.flushed + others.length) 4294967295 } }))))

/-! ## The Command Link and the notice queue -/

/-- R156, R157: the last CRC byte of a frame on the Command Link, as REQUEST_FRAME and as CL_BYTE (log 14):
the checks in their order, then the offer: taken, answered BUSY, or discarded. That a request taken by a
FREE processor with an empty queue is executed before the next event is log 15. -/
def Obligations.RequestFrameIsTakenAnsweredOrDiscarded : Prop :=
  ∀ (s u : State) (b : Byte) (c : Instr) (n : Nat) (got content crc : List Byte)
    (kind code tag : Byte) (fields : List Byte), s.AtRest →
    (c = .requestFrame b ∨ c = .clByte b) →
    s.command.receiver = .frame n got → got.length + 1 = n + 4 →
    content = (got ++ [b]).take n → crc = (got ++ [b]).drop n →
    content = kind :: code :: tag :: fields →
    u = { s with command := { s.command with receiver := .hunt } } →
    (crc ≠ crcBytes content →
      exec c s = .next (u.countCommand fun k =>
        { k with crcError := min (k.crcError + 1) 4294967295 })) ∧
    (crc = crcBytes content → kind ≠ 0x10#8 →
      exec c s = .next (u.countCommand fun k =>
        { k with kindError := min (k.kindError + 1) 4294967295 })) ∧
    (crc = crcBytes content → kind = 0x10#8 →
      (s.command.requests.length < 4 →
        exec c s = .next { s with command := { s.command with
          receiver := .hunt
          requests := s.command.requests ++ [⟨code, tag, fields⟩]
          counters := { s.command.counters with
            requestsTaken := min (s.command.counters.requestsTaken + 1) 4294967295 } } }) ∧
      (4 ≤ s.command.requests.length → s.command.replies.length < 8 →
        exec c s = .next (transmitChoice (setFlag .commandOverflow
          { s with command := { s.command with
            receiver := .hunt
            replies := s.command.replies ++ [⟨code, tag, .busy, []⟩]
            counters := { s.command.counters with
              requestsTaken := min (s.command.counters.requestsTaken + 1) 4294967295
              busyReplies := min (s.command.counters.busyReplies + 1) 4294967295 } } }))) ∧
      (4 ≤ s.command.requests.length → 8 ≤ s.command.replies.length →
        exec c s = .next (setFlag .commandOverflow
          { s with command := { s.command with
            receiver := .hunt
            counters := { s.command.counters with
              unanswered := min (s.command.counters.unanswered + 1) 4294967295 } } })))

/-- R162, R164: the end of a transmission on the Command Link is counted and leads to the next choice,
or to the device reset that a sent RESET_DEVICE reply brings; an idle line chooses the oldest reply,
else the first notice, else the head SET, and a removed reply gives its place to what waits for it;
and the frame the line carries (R183). What a reset keeps is the model's (logs 2, 3, 7), and so are
where a frame in transmission stands (log 4), that the end of none changes nothing (log 12), and that a
processor freed from AWAITING_ROOM executes before the next event (log 15). -/
def Obligations.CommandLineSendsRepliesNoticesThenSets : Prop :=
  ∀ s : State,
    ((∀ r, s.command.line = some (.reply r) →
        s.commandLineFrame = some (frameBytes 0x11#8 (replyBody r))) ∧
      (∀ n, s.command.line = some (.notice n) →
        s.commandLineFrame = some (frameBytes 0x12#8 (noticeBody n))) ∧
      (s.command.line = none →
        (s.release.commandQueue.sending = false → s.commandLineFrame = none) ∧
        ∀ o rest, s.release.commandQueue.sending = true → s.release.commandQueue.sets = o :: rest →
          s.commandLineFrame = some (frameBytes 0x13#8 (setBody o)))) ∧
    (s.AtRest →
      (∀ r, s.command.line = some (.reply r) →
        (s.command.processor = .awaitingReset → r.code = 25#8 → r.status = .ok →
          exec .clTransmissionEnd s = .next
            { State.reset with pins := s.pins, freeCount := s.freeCount, pending := s.pending }) ∧
        (s.command.processor ≠ .awaitingReset ∨ r.code ≠ 25#8 ∨ r.status ≠ .ok →
          (r.status = .busy →
            exec .clTransmissionEnd s = .next (transmitChoice { s with command := { s.command with
              line := none
              counters := { s.command.counters with
                busySent := min (s.command.counters.busySent + 1) 4294967295 } } })) ∧
          (r.status ≠ .busy →
            exec .clTransmissionEnd s = .next (transmitChoice { s with command := { s.command with
              line := none
              counters := { s.command.counters with
                repliesSent := min (s.command.counters.repliesSent + 1) 4294967295 } } })))) ∧
      (∀ n, s.command.line = some (.notice n) →
        exec .clTransmissionEnd s = .next (transmitChoice { s with command := { s.command with
          line := none
          counters := { s.command.counters with
            noticesSent := min (s.command.counters.noticesSent + 1) 4294967295 } } })) ∧
      (∀ o rest, s.command.line = none → s.release.commandQueue.sending = true →
        s.release.commandQueue.sets = o :: rest →
        exec .clTransmissionEnd s = .next (transmitChoice { s with release := { s.release with
          commandQueue := { sets := rest, sending := false, counters :=
            { s.release.commandQueue.counters with
              sent := min (s.release.commandQueue.counters.sent + 1) 4294967295 } } } })) ∧
      (s.command.line = none → s.release.commandQueue.sending = false →
        exec .clTransmissionEnd s = .next s)) ∧
    (s.command.line ≠ none ∨ s.release.commandQueue.sending = true → transmitChoice s = s) ∧
    (s.command.line = none → s.release.commandQueue.sending = false →
      (s.command.replies = [] → s.reporting.notices = [] → s.release.commandQueue.sets = [] →
        transmitChoice s = s) ∧
      (∀ r rest, s.command.replies = r :: rest →
        (s.command.processor ≠ .awaitingRoom → s.command.processor ≠ .awaitingDrain ∨
            s.reporting.opState = .draining →
          transmitChoice s = { s with command := { s.command with
            line := some (.reply r), replies := rest } }) ∧
        (s.command.processor = .awaitingRoom →
          transmitChoice s = { s with command := { s.command with
            line := some (.reply r), replies := rest, processor := .free } }) ∧
        (∀ q others, s.command.processor = .awaitingDrain → s.reporting.opState ≠ .draining →
          s.command.requests = q :: others →
          transmitChoice s = { s with command := { s.command with
            line := some (.reply r), replies := rest ++ [⟨q.code, q.tag, .ok, []⟩],
            requests := others, processor := .free } })) ∧
      (∀ n rest, s.command.replies = [] → s.reporting.notices = n :: rest →
        transmitChoice s = { s with
          command := { s.command with line := some (.notice n) }
          reporting := { s.reporting with notices := rest } }) ∧
      (s.command.replies = [] → s.reporting.notices = [] → s.release.commandQueue.sets ≠ [] →
        transmitChoice s = { s with release := { s.release with
          commandQueue := { s.release.commandQueue with sending := true } } }))

/-- R158 to R160: a request of a code outside the catalogue, of a wrong length, or not allowed in the
present state or mode is answered with that status alone and changes nothing else; a reply leaves its
request and joins the reply list; a full reply list makes the processor wait. A reply's body is code, tag,
status and result fields, each status with its code (R186). The count of free values is the model's (log
3). -/
def Obligations.RefusedRequestsAreAnsweredAndChangeNothing : Prop :=
  (∀ (code tag : Byte) (st : Status) (bytes : List Byte),
    replyBody ⟨code, tag, st, bytes⟩ = [code, tag, BitVec.ofNat 8 st.code] ++ bytes) ∧
  [Status.ok, .busy, .unknownRequest, .badLength, .wrongState, .badField, .noTime, .tableFull,
    .notFound, .exists, .inUse, .timeConflict].map Status.code =
      [0, 1, 2, 3, 4, 5, 6, 7, 8, 9, 10, 11] ∧
  ∀ (s : State) (r : Request) (rest : List Request),
    (∀ code, s.Executes code r rest →
      (∀ st bytes, finishRequest r st bytes s = transmitChoice { s with
        freeCount := s.freeCount + 1
        command := { s.command with
          processor := .free, requests := rest, replies := s.command.replies ++ [⟨r.code, r.tag, st, bytes⟩] } }) ∧
      (code = 0 ∨ 29 ≤ code →
        exec .unknownRequest s = .next (finishRequest r .unknownRequest [] s)) ∧
      (∀ c length, (c, code, length) ∈
          [(Instr.identify, 1, 0), (.readStatus, 2, 0), (.configureGrid, 3, 3),
           (.configureRelease, 4, 14), (.configureTime, 5, 4), (.setSecond, 6, 4),
           (.configureIngest, 7, 24), (.readUnknownLog, 8, 1), (.declareSource, 9, 22),
           (.amendSource, 10, 13), (.retireSource, 11, 2), (.suspendSource, 12, 2),
           (.resumeSource, 13, 2), (.readSource, 14, 4), (.cancelView, 16, 1), (.readView, 17, 2),
           (.configureReleaseLink, 18, 2), (.readReleaseLinks, 19, 1), (.start, 20, 0),
           (.stop, 21, 0), (.releaseThrough, 22, 8), (.readWindow, 23, 10), (.resetWindow, 24, 0),
           (.resetDevice, 25, 0), (.clearCounters, 26, 0), (.clearFaults, 27, 8),
           (.setNotices, 28, 20)] →
        (r.fields.length ≠ length → exec c s = .next (finishRequest r .badLength [] s)) ∧
        (r.fields.length = length →
          code ∈ [3, 4, 5, 20, 24] ∧ s.reporting.opState ≠ .idle ∨
            code ∈ [21, 22] ∧ s.reporting.opState ≠ .running ∨
            code = 22 ∧ s.window.config.mode ≠ .demand →
          exec c s = .next (finishRequest r .wrongState [] s))) ∧
      (code = 15 →
        r.fields.length < 16 ∨ r.fields.length ≠ 16 + 5 * (fieldAt r.fields 15 1 + 1) →
        exec .stageView s = .next (finishRequest r .badLength [] s))) ∧
    (s.inReset = false → s.command.processor = .free → s.command.requests = r :: rest →
      8 ≤ s.command.replies.length →
      exec (requestCommand r.code) s =
        .next { s with command := { s.command with processor := .awaitingRoom } })

/-- R164, R165, R173 to R175: a raised notice of an OPEN class takes its place in transmit order; a full
queue gives up the earliest of its lowest priority if that is below the new notice's, else the new one,
with one loss counted either way. So it is where the line is busy, or a request is in execution, whose
reply is chosen first (log 9); on an idle line with nothing waiting the notice is chosen at once. What a
NOTICE's body carries, and the subject and detail of the TIME and SOURCE notices (R24, R187). -/
def Obligations.NoticesWaitInTransmitOrder : Prop :=
  (∀ (n : Notice) (kind value : Nat),
    (n.subject = .none → kind = 0 ∧ value = 0) →
    (∀ i, n.subject = .source i → kind = 1 ∧ value = i) →
    (∀ v, n.subject = .view v → kind = 2 ∧ value = v.index) →
    (∀ l, n.subject = .ingest l → kind = 3 ∧ value = l.index) →
    (∀ d, n.subject = .queue d → kind = 4 ∧ value = d.code) →
    carries [(1, some n.cls.code), (1, some n.priority), (1, some kind), (2, some value),
      (8, some n.detail), (4, some n.second)] (noticeBody n)) ∧
  [NoticeClass.time, .source, .unknown, .view, .congestion, .overdue].map NoticeClass.code =
    [0, 1, 2, 3, 4, 5] ∧
  ([ViewId.v0, .v1, .v2, .v3, .v4, .v5, .v6, .v7].map ViewId.index = [0, 1, 2, 3, 4, 5, 6, 7] ∧
    [LinkId.il0, .il1, .il2, .il3].map LinkId.index = [0, 1, 2, 3] ∧
    [Destination.rl0, .rl1, .cl].map Destination.code = [0, 1, 2]) ∧
  (∀ (s : State) (i : Nat),
    (∀ cause code, (cause, code) ∈ [(TimeCause.captured, 0), (.pending, 1), (.pendingDiscarded, 2),
        (.stepped, 3), (.outliers, 4), (.missing, 5), (.holdoverLimit, 6)] →
      ∀ quality, (s.time.quality, quality) ∈
          [(TimeQuality.unset, 0), (.locked, 1), (.holdover, 2), (.freeRun, 3)] →
        raiseTime cause s = raiseNotice .time .none (quality * 256 + code) s) ∧
    (∀ cause code, (cause, code) ∈
        [(SourceCause.stalled, 0), (.recovered, 1), (.shapeChanged, 2)] →
      raiseSource i cause s = raiseNotice .source (.source i) code s)) ∧
  ∀ (s : State) (c : NoticeClass) (subject : Subject) (detail : Nat) (n : Notice),
    n = { cls := c, priority := (s.reporting.classes.get c).priority, subject := subject,
          detail := detail, second := s.time.second } →
    ((s.reporting.classes.get c).masked = true → raiseNotice c subject detail s = s) ∧
    ((s.reporting.classes.get c).masked = false → s.lineBusy = false →
      s.command.processor ≠ .executing → s.command.replies = [] → s.reporting.notices = [] →
      raiseNotice c subject detail s =
        { s with command := { s.command with line := some (.notice n) } }) ∧
    ((s.reporting.classes.get c).masked = false →
      (s.lineBusy = true ∨ s.command.processor = .executing) →
      s.reporting.notices.Pairwise (fun a b => b.priority ≤ a.priority) →
      (s.reporting.notices.length < 16 →
        ∃ before after, s.reporting.notices = before ++ after ∧
          (∀ m ∈ before, n.priority ≤ m.priority) ∧ (∀ m ∈ after, m.priority < n.priority) ∧
          raiseNotice c subject detail s =
            { s with reporting := { s.reporting with notices := before ++ n :: after } }) ∧
      (16 ≤ s.reporting.notices.length →
        ((∃ m ∈ s.reporting.notices, m.priority < n.priority) →
          ∃ before after kept lost later, s.reporting.notices = kept ++ lost :: later ∧
            (∀ m ∈ kept, lost.priority < m.priority) ∧
            (∀ m ∈ later, m.priority = lost.priority) ∧
            kept ++ later = before ++ after ∧
            (∀ m ∈ before, n.priority ≤ m.priority) ∧ (∀ m ∈ after, m.priority < n.priority) ∧
            raiseNotice c subject detail s = setFlag .noticeLoss
              { s with reporting :=
                { s.reporting with
                  notices := before ++ n :: after
                  lostNotices := min (s.reporting.lostNotices + 1) 4294967295 } }) ∧
        ((∀ m ∈ s.reporting.notices, n.priority ≤ m.priority) →
          raiseNotice c subject detail s = setFlag .noticeLoss
            { s with reporting := { s.reporting with
              lostNotices := min (s.reporting.lostNotices + 1) 4294967295 } })))

/-! ## The requests -/

/-- R52, R68, R117, R140, R153, R180, R181, R186: the reading requests report, and change nothing but the
counters or the log that a clear option zeroes after they have been taken for the reply; what each
reply carries, field by field; and that each choice is numbered from 0 in its rule's order. The layout
choices of the replies are log 8, their free bytes log 3. -/
def Obligations.ReadingRequestsReportAndClear : Prop :=
  ∀ (s : State) (r : Request) (rest : List Request) (f : List Byte), r.fields = f →
    ([TimeQuality.unset, .locked, .holdover, .freeRun].map TimeQuality.code = [0, 1, 2, 3] ∧
      [OpState.idle, .running, .draining].map OpState.code = [0, 1, 2] ∧
      [EntryState.unused, .declared, .active, .stalled, .suspended, .retiring].map
        EntryState.code = [0, 1, 2, 3, 4, 5] ∧
      [SlotState.opened, .ready, .closed, .assembling].map SlotState.code = [0, 1, 2, 3] ∧
      [Opener.arrival, .cadence].map Opener.code = [0, 1] ∧
      [CloseReason.complete, .deadline, .demand, .pressure, .overrun, .stop].map
        CloseReason.code = [0, 1, 2, 3, 4, 5] ∧
      [ReleaseMode.early, .deadline, .demand].map ReleaseMode.code = [0, 1, 2] ∧
      [WaitMode.fixed, .adaptive].map WaitMode.code = [0, 1] ∧
      [Destination.rl0, .rl1, .cl].map Destination.code = [0, 1, 2] ∧
      [LinkState.disabled, .inhibited, .sending, .paused, .idle].map LinkState.code =
        [0, 1, 2, 3, 4]) ∧
    (s.Executes 1 r rest → f.length = 0 →
      exec .identify s = .next (finishRequest r .ok
        [48, 1, 0, 0, 4, 0, 0, 0, 1, 0, 0, 1, 0, 0, 0, 0, 0, 8, 0, 0, 0, 32, 0, 0, 0, 16, 0, 0, 0, 4]
        s)) ∧
    (s.Executes 2 r rest → f.length = 0 → ∃ bytes,
      exec .readStatus s = .next (finishRequest r .ok bytes s) ∧
      carries
        ((1, some s.reporting.opState.code) :: flagField s.reporting.startMark ::
          s.reporting.faults.toList.map flagField ++
          s.reporting.alertEnables.toList.map flagField ++
          [flagField (!s.alert), (1, some s.time.quality.code), (4, some s.time.second)] ++
          maybeField 4 s.time.pendingSecond ++ maybeField 8 s.window.horizon ++
          maybeField 8 s.windowBase ++
          fieldsOf 4 ([SlotState.opened, .ready, .closed, .assembling].map fun st =>
            (s.window.slots.filter fun p => p.2.state = st).length) ++
          fieldsOf 4 [s.window.freeRecords, s.window.assemblyQueue.length] ++
          maybeField 8 s.assembler.current ++
          fieldsOf 4 [s.window.counters.skippedInstants, s.release.queue0.sets.length,
            s.release.queue1.sets.length, s.release.commandQueue.sets.length,
            s.reporting.notices.length, s.reporting.lostNotices, s.command.requests.length,
            s.command.replies.length, s.command.counters.huntBytes,
            s.command.counters.lengthError, s.command.counters.crcError,
            s.command.counters.kindError, s.command.counters.requestsTaken,
            s.command.counters.busyReplies, s.command.counters.unanswered,
            s.command.counters.repliesSent, s.command.counters.busySent,
            s.command.counters.noticesSent]) bytes) ∧
    (s.Executes 8 r rest → f.length = 1 →
      (fieldAt f 0 1 ≤ 1 → ∃ bytes, exec .readUnknownLog s = .next (finishRequest r .ok bytes
          (if fieldAt f 0 1 = 1 then { s with ingest := { s.ingest with log := [] } } else s)) ∧
        carries ((2, some s.ingest.log.length) :: s.ingest.log.flatMap fun e =>
          [(2, some e.id.toNat), (1, some e.link.index), (4, some e.firstSeen),
           (4, some (e.count - 1))]) bytes) ∧
      (2 ≤ fieldAt f 0 1 →
        exec .readUnknownLog s = .next (finishRequest r .badField [] s))) ∧
    (s.Executes 14 r rest → f.length = 4 → ∀ valid : Prop,
      (valid ↔ fieldAt f 0 1 ≤ 1 ∧ fieldAt f 3 1 ≤ 1 ∧
        (fieldAt f 0 1 = 0 → 1 ≤ fieldAt f 1 2 ∧ fieldAt f 1 2 ≤ 65534) ∧
        (fieldAt f 0 1 = 1 → fieldAt f 1 2 ≤ 1023)) →
      (¬valid → exec .readSource s = .next (finishRequest r .badField [] s)) ∧
      (valid →
        (fieldAt f 0 1 = 0 → mappedEntry (BitVec.ofNat 16 (fieldAt f 1 2)) s.sources = none →
          exec .readSource s = .next (finishRequest r .notFound [] s)) ∧
        (fieldAt f 0 1 = 1 → (s.entry (fieldAt f 1 2)).state = .unused →
          exec .readSource s = .next (finishRequest r .notFound [] s)) ∧
        (∀ (i : Nat) (e e' : Entry) (o : SourceOptions) (c : SourceCounters),
          (fieldAt f 0 1 = 0 ∧
              mappedEntry (BitVec.ofNat 16 (fieldAt f 1 2)) s.sources = some (i, e') ∨
            fieldAt f 0 1 = 1 ∧ i = fieldAt f 1 2 ∧ (s.entry i).state ≠ .unused) →
          e = s.entry i → o = e.options → c = e.counters → ∃ bytes,
          exec .readSource s = .next (finishRequest r .ok bytes
            (if fieldAt f 3 1 = 1 then s.countSource i fun _ => {} else s)) ∧
          carries
            ([(2, some i), (2, some e.id.toNat),
              (1, some ((if e.links.il0 then 1 else 0) + (if e.links.il1 then 2 else 0) +
                (if e.links.il2 then 4 else 0) + (if e.links.il3 then 8 else 0))),
              (1, some e.shape.rate), (3, some e.shape.timeBase), (1, some (e.shape.phasors - 1)),
              (1, some e.shape.analogs), flagField (e.shape.order = .little),
              flagField o.required, flagField (o.holdPolicy = .hold), (1, some o.holdLimit),
              (4, some o.tolerance), flagField o.reReference, (1, some o.qualityLimit),
              (1, some (o.stallThreshold - 1)), flagField o.remoteAllowed,
              (1, some e.state.code), (4, some e.latency)] ++ maybeField 8 e.receipt.newest ++
              [(8, some (e.receipt.marks.toNat / 2)), (4, some e.missCount),
               (4, some e.heldCount), flagField (s.hold? i).isSome] ++
              fieldsOf 4 [c.accepted, c.suspendedDrops, c.wrongLink, c.notRunning, c.badShape,
                c.badTime, c.decimated, c.misaligned, c.duplicate, c.late, c.early, c.noSlot,
                c.storeFull, c.held, c.absent, c.stalls, c.remoteRefused, c.badDescription,
                c.descriptions]) bytes))) ∧
    (s.Executes 17 r rest → f.length = 2 → ∀ descriptor : Option Descriptor → List WireField,
      descriptor none = [(9, none), (1, some 0), (5, none)] →
      (∀ d, descriptor (some d) =
        [(1, some d.tag), (1, some d.divisor), (1, some d.destination.code),
         flagField d.completeOnly, flagField (d.angleForm = .cdeg),
         flagField (d.magnitudeForm = .m16), (1, some d.shift), flagField (d.order = .little),
         flagField d.includeFrequency, (1, some (d.sources.length - 1))] ++
        d.sources.flatMap fun e =>
          [(2, some e.source), (2, some e.phasors.toNat), (1, some e.analogs.toNat)]) →
      (∀ (v : ViewId) (w : View), fieldAt f 0 1 = v.index → fieldAt f 1 1 ≤ 1 → w = s.view v →
        ∃ bytes, exec .readView s = .next (finishRequest r .ok bytes
          (if fieldAt f 1 1 = 1 then
            s.modifyView v fun w => { w with setsBuilt := 0, skippedIncomplete := 0 } else s)) ∧
        carries
          (flagField w.current.isSome :: flagField w.current.isSome :: descriptor w.current ++
            flagField w.staged.isSome ::
            (w.staged.elim (descriptor none ++ [(5, none)]) fun st =>
              descriptor st.content ++
                [(4, some st.effectiveSecond), flagField st.content.isNone]) ++
            [(2, some w.revision.toNat), (4, some w.setsBuilt), (4, some w.skippedIncomplete)])
          bytes) ∧
      (8 ≤ fieldAt f 0 1 ∨ 2 ≤ fieldAt f 1 1 →
        exec .readView s = .next (finishRequest r .badField [] s))) ∧
    (s.Executes 19 r rest → f.length = 1 → ∀ link : RelId → List WireField,
      (∀ l q, q = s.release.queue l.destination → link l =
        [flagField (!s.enabled l), (1, some (s.linkState l).code), flagField (s.busy l),
         (4, some q.sets.length)] ++
        (if q.sending then
          q.sets.head?.elim [(1, some 0), (6, none)] fun o =>
            [(1, some 1), (1, some o.tag), (4, some o.second), (1, some o.index)]
         else [(1, some 0), (6, none)]) ++
        fieldsOf 4 [q.counters.queued, q.counters.disabledDrops, q.counters.dropped,
          q.counters.sent, q.counters.cut, q.counters.inhibitedDrops, q.counters.flushed]) →
      (fieldAt f 0 1 ≤ 1 → ∀ q, q = s.release.commandQueue → ∃ bytes,
        exec .readReleaseLinks s = .next (finishRequest r .ok bytes
          (if fieldAt f 0 1 = 1 then
            { s with release := { s.release with
              queue0 := { s.release.queue0 with counters := {} }
              queue1 := { s.release.queue1 with counters := {} }
              commandQueue := { s.release.commandQueue with counters := {} } } } else s)) ∧
        carries (link .rl0 ++ link .rl1 ++ [(4, some q.sets.length), flagField q.sending] ++
          fieldsOf 4 [q.counters.queued, q.counters.dropped, q.counters.sent, q.counters.cut,
            q.counters.inhibitedDrops, q.counters.flushed] ++
          [flagField s.pins.inhibit]) bytes) ∧
      (2 ≤ fieldAt f 0 1 →
        exec .readReleaseLinks s = .next (finishRequest r .badField [] s))) ∧
    (s.Executes 23 r rest → f.length = 10 →
      (fieldAt f 0 1 ≤ 1 → fieldAt f 1 1 ≤ 1 →
        ∀ (w : Window) (c : ReleaseConfig), w = s.window → c = w.config → ∃ bytes,
        exec .readWindow s = .next (finishRequest r .ok bytes
          (if fieldAt f 0 1 = 1 then { s with window := { s.window with counters := {} } }
           else s)) ∧
        carries
          (maybeField 8 w.horizon ++ maybeField 8 s.windowBase ++
            fieldsOf 4 ([SlotState.opened, .ready, .closed, .assembling].map fun st =>
              (w.slots.filter fun p => p.2.state = st).length) ++
            fieldsOf 4 [w.freeRecords, s.reclaimable, w.assemblyQueue.length] ++
            maybeField 8 s.assembler.current ++
            [(1, some c.mode.code), (1, some c.wait.code), (1, some c.fixedCode),
             (1, some c.capCode), (4, some c.minWait), (4, some c.margin), (2, some c.lowWater),
             (4, some (lmax s.sources)),
             (4, some (if c.wait = .fixed then waitGrains c.fixedCode
               else min (max (lmax s.sources + c.margin) c.minWait) (waitGrains c.capCode)))] ++
            fieldsOf 4 [w.counters.openedByCadence, w.counters.openedByArrival,
              w.counters.closedComplete, w.counters.closedDeadline, w.counters.closedDemand,
              w.counters.closedPressure, w.counters.closedOverrun, w.counters.closedStop,
              w.counters.skippedInstants, w.counters.overdueMarks, w.counters.noSlot] ++
            (2, some w.slots.length) :: (w.slots.flatMap fun p =>
              [(8, some p.1), (1, some p.2.state.code), (1, some p.2.opener.code),
               (8, some p.2.deadline), (4, some p.2.contributors.length),
               flagField p.2.overdue] ++ maybeField 1 (p.2.closeReason.map CloseReason.code)) ++
            ((if fieldAt f 1 1 = 1 then s.slot? (fieldAt f 2 8) else none).elim
              [(1, some 0), (2, some 0)] fun slot =>
                (1, some 1) :: (2, some slot.contributors.length) ::
                  slot.contributors.map fun p => (2, some p.1))) bytes) ∧
      (2 ≤ fieldAt f 0 1 ∨ 2 ≤ fieldAt f 1 1 →
        exec .readWindow s = .next (finishRequest r .badField [] s)))

/-- R2, R116, R14: CONFIGURE_GRID and CONFIGURE_RELEASE in IDLE: what is out of range, what is in use, and
the values a request that passes makes the values in force. That the reply's grain values stand after the
seven values is log 8. -/
def Obligations.GridAndReleaseConfigurationsAreCheckedAndSet : Prop :=
  ∀ (s : State) (r : Request) (rest : List Request) (f : List Byte), r.fields = f →
    s.reporting.opState = .idle →
    (s.Executes 3 r rest → f.length = 3 → ∀ (f0 rate : Nat) (valid inUse : Prop),
      f0 = fieldAt f 0 1 → rate = fieldAt f 1 1 →
      (valid ↔ rate ∈ rateFamily f0 ∧
        waitGrains s.window.config.fixedCode ≤ 200 * (6000000 / rate) ∧
        waitGrains s.window.config.capCode ≤ 200 * (6000000 / rate)) →
      (inUse ↔ (f0 ≠ s.grid.f0 ∧ ∃ p ∈ s.sources, p.2.state ≠ .unused) ∨
        ((f0 ≠ s.grid.f0 ∨ rate ≠ s.grid.rate) ∧ s.window.horizon ≠ none) ∨
        ∃ v d, ((s.view v).current = some d ∨
          ∃ st, (s.view v).staged = some st ∧ st.content = some d) ∧ rate % d.divisor ≠ 0) →
      (¬valid → exec .configureGrid s = .next (finishRequest r .badField [] s)) ∧
      (valid → inUse → exec .configureGrid s = .next (finishRequest r .inUse [] s)) ∧
      (valid → ¬inUse → exec .configureGrid s = .next (finishRequest r .ok
        (be1 f0 ++ be1 rate ++ be4 (6000000 / rate) ++ be1 (min (fieldAt f 2 1) 16))
        { s with grid := { f0 := f0, rate := rate, futureLimit := min (fieldAt f 2 1) 16 } }))) ∧
    (s.Executes 4 r rest → f.length = 14 → ∀ (valid : Prop) (c : ReleaseConfig),
      (valid ↔ fieldAt f 0 1 ≤ 2 ∧ fieldAt f 1 1 ≤ 1 ∧ fieldAt f 2 1 ≤ 7 ∧ fieldAt f 3 1 ≤ 7 ∧
        fieldAt f 4 4 ≤ waitGrains (fieldAt f 3 1) ∧ fieldAt f 8 4 ≤ 6000000 ∧
        waitGrains (fieldAt f 2 1) ≤ 200 * s.grid.period ∧
        waitGrains (fieldAt f 3 1) ≤ 200 * s.grid.period) →
      c = { mode := if fieldAt f 0 1 = 0 then .early
              else if fieldAt f 0 1 = 1 then .deadline else .demand
            wait := if fieldAt f 1 1 = 0 then .fixed else .adaptive
            fixedCode := fieldAt f 2 1
            capCode := fieldAt f 3 1
            minWait := fieldAt f 4 4
            margin := fieldAt f 8 4
            lowWater := min (fieldAt f 12 2) 32768 } →
      (¬valid → exec .configureRelease s = .next (finishRequest r .badField [] s)) ∧
      (valid → exec .configureRelease s = .next (finishRequest r .ok
        (be1 (fieldAt f 0 1) ++ be1 (fieldAt f 1 1) ++ be1 c.fixedCode ++ be1 c.capCode ++
          be4 c.minWait ++ be4 c.margin ++ be2 c.lowWater ++ be4 (waitGrains c.fixedCode) ++
          be4 (waitGrains c.capCode))
        { s with window := { s.window with config := c } })))

/-- R25, R26: CONFIGURE_TIME takes the check its new capture window has passed; SET_SECOND outside IDLE
is taken only for the expected next second. The mark of the check taken is log 13, the free bytes of an
expected second that cannot be held log 3; the reply to CONFIGURE_TIME carries the report of R26, field
by field, and a notice that the check raises waits for that reply (log 9). -/
def Obligations.TimeRequestsSetTheReference : Prop :=
  ∀ (s : State) (r : Request) (rest : List Request) (f : List Byte), r.fields = f → f.length = 4 →
    (s.Executes 5 r rest → s.reporting.opState = .idle → ∀ (c h : Nat) (u : State),
      c = fieldAt f 0 2 → h = fieldAt f 2 2 + 1 →
      u = { s.withProcessor .executing with time :=
        { s.time with captureWindow := c, holdoverLimit := h } } →
      (c < 60 ∨ 6000 < c ∨ 3600 < h →
        exec .configureTime s = .next (finishRequest r .badField [] s)) ∧
      (60 ≤ c → c ≤ 6000 → h ≤ 3600 → ∀ v : State,
        (c < s.time.fraction ∧ s.time.fraction ≤ s.time.captureWindow ∧
            s.time.checkTaken = false ∧ v = ppsCheck u ∨
          (s.time.fraction ≤ c ∨ s.time.captureWindow < s.time.fraction ∨
            s.time.checkTaken = true) ∧ v = u) →
        ∃ bytes, exec .configureTime s = .next (finishRequest r .ok bytes v) ∧
          carries ([(2, some c), (2, some (h - 1)), (1, some v.time.quality.code),
            (4, some s.time.second), (4, some s.time.fraction)] ++
            maybeField 4 s.time.pendingSecond ++
            fieldsOf 4 [s.time.outlierRun, v.time.holdoverSeconds]) bytes)) ∧
    (s.Executes 6 r rest → ∀ second e : Nat, second = fieldAt f 0 4 →
      e = (if s.time.fraction ≤ s.time.captureWindow ∧ s.time.boundaryMark = false
        then s.time.second else s.time.second + 1) →
      (s.reporting.opState ≠ .idle → second ≠ e →
        exec .setSecond s = .next (finishRequest r .timeConflict [] s)) ∧
      (s.reporting.opState = .idle ∨ second = e → e ≤ 4294967295 →
        exec .setSecond s = .next (finishRequest r .ok
          (be4 second ++ be4 e ++ [if s.time.pendingSecond = none then 0 else 1] ++
            be1 s.time.quality.code)
          { s with time := { s.time with pendingSecond := some second } })) ∧
      (s.reporting.opState = .idle → 4294967295 < e →
        ∃ bytes, bytes.length = 10 ∧ exec .setSecond s = .next (finishRequest r .ok bytes
          { s with time := { s.time with pendingSecond := some second } })))

/-- R33, R40, R50, R51: CONFIGURE_INGEST reads, or applies switches, filters and arbiter settings;
turning a link OFF discards its partial frame and its FIFO; the report carries each link and the shared
items, field by field, and the clear follows it. That the report has the request's own counts is log
16, the byte of the last-granted link log 8. -/
def Obligations.IngestConfigurationIsAppliedAndReported : Prop :=
  ∀ (s : State) (r : Request) (rest : List Request) (f : List Byte), s.Executes 7 r rest →
    r.fields = f → f.length = 24 → ∀ report : State → List WireField,
    (∀ v : State, report v = (LinkId.all.flatMap fun l =>
        [flagField (v.link l).on, (2, some (v.link l).filterMatch.toNat),
         (2, some (v.link l).filterMask.toNat), (1, some (v.link l).receiver.code)] ++
        fieldsOf 4 [(v.link l).fifo.length, (v.link l).passedOver,
          (v.link l).counters.huntBytes, (v.link l).counters.lengthError,
          (v.link l).counters.crcError, (v.link l).counters.kindError,
          (v.link l).counters.filtered, (v.link l).counters.enqueued,
          (v.link l).counters.overflow, (v.link l).counters.abandoned,
          (v.link l).counters.flushed, (v.link l).counters.granted,
          (v.link l).counters.unknownFrames]) ++
      [flagField (v.ingest.mode = .roundRobin), (1, some v.ingest.fairness),
       (1, some v.ingest.lastGranted.index), flagField v.ingest.dispatch.isSome]) →
    (Receiver.code .off = 0 ∧ Receiver.code .hunt = 1 ∧ Receiver.code .marker = 2 ∧
      (∀ x, Receiver.code (.length x) = 3) ∧ ∀ n got, Receiver.code (.frame n got) = 4) ∧
    (2 ≤ fieldAt f 0 1 ∨ 2 ≤ fieldAt f 1 1 →
      exec .configureIngest s = .next (finishRequest r .badField [] s)) ∧
    (fieldAt f 0 1 = 0 → fieldAt f 1 1 = 0 → ∃ bytes,
      exec .configureIngest s = .next (finishRequest r .ok bytes s) ∧ carries (report s) bytes) ∧
    (fieldAt f 0 1 = 0 → fieldAt f 1 1 = 1 → ∃ bytes t,
      exec .configureIngest s = .next (finishRequest r .ok bytes t) ∧ carries (report s) bytes ∧
      t = { s with links := t.links } ∧ ∀ l, t.link l = { s.link l with counters := {} }) ∧
    (fieldAt f 0 1 = 1 → fieldAt f 1 1 ≤ 1 →
      ((∃ l : LinkId, 2 ≤ fieldAt f (2 + 5 * l.index) 1) ∨ 2 ≤ fieldAt f 22 1 ∨
          16 ≤ fieldAt f 23 1 →
        exec .configureIngest s = .next (finishRequest r .badField [] s)) ∧
      ((∀ l : LinkId, fieldAt f (2 + 5 * l.index) 1 ≤ 1) → fieldAt f 22 1 ≤ 1 →
        fieldAt f 23 1 ≤ 15 → ∃ bytes u t,
        exec .configureIngest s = .next (finishRequest r .ok bytes t) ∧ carries (report u) bytes ∧
        (fieldAt f 1 1 = 0 → t = u) ∧
        (fieldAt f 1 1 = 1 → t = { u with links := t.links } ∧
          ∀ l, t.link l = { u.link l with counters := {} }) ∧
        u = { s with links := u.links, ingest := { s.ingest with
          mode := if fieldAt f 22 1 = 0 then .priority else .roundRobin
          fairness := fieldAt f 23 1 } } ∧
        ∀ (l : LinkId) (k : IngestLink), k = { s.link l with
            filterMatch := BitVec.ofNat 16 (fieldAt f (3 + 5 * l.index) 2)
            filterMask := BitVec.ofNat 16 (fieldAt f (5 + 5 * l.index) 2) } →
          (fieldAt f (2 + 5 * l.index) 1 = (if (s.link l).on then 1 else 0) → u.link l = k) ∧
          (fieldAt f (2 + 5 * l.index) 1 = 1 → (s.link l).on = false →
            u.link l = { k with on := true, receiver := .hunt }) ∧
          (fieldAt f (2 + 5 * l.index) 1 = 0 → (s.link l).on = true →
            (u.link l).on = false ∧ (u.link l).receiver = .off ∧ (u.link l).fifo = [] ∧
            (u.link l).passedOver = 0 ∧ (u.link l).filterMatch = k.filterMatch ∧
            (u.link l).filterMask = k.filterMask ∧
            ∀ c : LinkCounters,
              (((∃ x, k.receiver = .length x) ∨ ∃ n got, k.receiver = .frame n got) ∧
                  c = { k.counters with
                    abandoned := min (k.counters.abandoned + 1) 4294967295 } ∨
                k.receiver = .marker ∧ c = { k.counters with
                  huntBytes := min (k.counters.huntBytes + 1) 4294967295 } ∨
                (k.receiver = .hunt ∨ k.receiver = .off) ∧ c = k.counters) →
              (u.link l).counters =
                { c with flushed := min (c.flushed + k.fifo.length) 4294967295 })))

/-- R49, R55, R61: DECLARE_SOURCE: what is out of range, EXISTS, TABLE_FULL, and the lowest UNUSED entry
that an accepted declaration writes. -/
def Obligations.DeclarationTakesTheLowestUnusedEntry : Prop :=
  ∀ (s : State) (r : Request) (rest : List Request) (f : List Byte) (id : Word16) (valid : Prop),
    s.Executes 9 r rest → r.fields = f → f.length = 22 → id = BitVec.ofNat 16 (fieldAt f 0 2) →
    (valid ↔ 1 ≤ fieldAt f 0 2 ∧ fieldAt f 0 2 ≤ 65534 ∧ 1 ≤ fieldAt f 2 1 ∧ fieldAt f 2 1 ≤ 15 ∧
      fieldAt f 3 1 ∈ rateFamily s.grid.f0 ∧ 1 ≤ fieldAt f 4 3 ∧ fieldAt f 7 1 ≤ 15 ∧
      fieldAt f 8 1 ≤ 8 ∧ fieldAt f 9 1 ≤ 1 ∧ fieldAt f 10 1 ≤ 1 ∧
      (fieldAt f 10 1 = 0 →
        fieldAt f 11 1 ≤ 1 ∧ fieldAt f 12 1 ≤ 1 ∧ fieldAt f 14 4 ≤ 3000000 ∧ fieldAt f 18 1 ≤ 1 ∧
        fieldAt f 19 1 ≤ 15 ∧ fieldAt f 20 1 ≤ 254 ∧ fieldAt f 21 1 ≤ 1)) →
    (¬valid → exec .declareSource s = .next (finishRequest r .badField [] s)) ∧
    (valid → (∃ p ∈ s.sources, p.2.state ≠ .unused ∧ p.2.id = id) →
      exec .declareSource s = .next (finishRequest r .exists [] s)) ∧
    (valid → (∀ p ∈ s.sources, p.2.state ≠ .unused → p.2.id ≠ id) →
      ((∀ i, i < 1024 → (s.entry i).state ≠ .unused) →
        exec .declareSource s = .next (finishRequest r .tableFull [] s)) ∧
      (∀ i, i < 1024 → (s.entry i).state = .unused →
        (∀ j, j < i → (s.entry j).state ≠ .unused) →
        exec .declareSource s = .next (finishRequest r .ok (be2 i)
          { s with
            sources := tableInsert i
              { state := .declared
                id := id
                links := ⟨(fieldAt f 2 1).testBit 0, (fieldAt f 2 1).testBit 1,
                  (fieldAt f 2 1).testBit 2, (fieldAt f 2 1).testBit 3⟩
                shape :=
                  { rate := fieldAt f 3 1, timeBase := fieldAt f 4 3,
                    phasors := fieldAt f 7 1 + 1, analogs := fieldAt f 8 1,
                    order := if fieldAt f 9 1 = 0 then .big else .little }
                options :=
                  if fieldAt f 10 1 = 1 then
                    { required := false, holdPolicy := .absent, holdLimit := 5, tolerance := 6000,
                      reReference := true, qualityLimit := 15, stallThreshold := 10,
                      remoteAllowed := false }
                  else
                    { required := fieldAt f 11 1 = 1
                      holdPolicy := if fieldAt f 12 1 = 0 then .absent else .hold
                      holdLimit := fieldAt f 13 1
                      tolerance := fieldAt f 14 4
                      reReference := fieldAt f 18 1 = 1
                      qualityLimit := fieldAt f 19 1
                      stallThreshold := fieldAt f 20 1 + 1
                      remoteAllowed := fieldAt f 21 1 = 1 }
                latency := 0
                receipt := { newest := none, marks := 0 }
                missCount := 0
                heldCount := 0
                counters := {} }
              s.sources
            assembler := { s.assembler with holdBank := tableErase i s.assembler.holdBank }
            ingest := { s.ingest with
              log := s.ingest.log.filter fun e => e.id ≠ id } })))

/-- R60, R62, R63: AMEND_SOURCE writes the eight amendable fields of the entry its identifier resolves to,
moves its miss count by the changed threshold, and asks for re-evaluation where R59 says so. Identifiers
0 and 65,535 resolve to nothing and are answered NOT_FOUND (log 17); the notice of a stall enters the
queue inside the execution, and its reply is chosen first (log 9). -/
def Obligations.AmendmentWritesTheOptionsAndMovesTheMissCount : Prop :=
  ∀ (s : State) (r : Request) (rest : List Request) (f : List Byte) (valid : Prop)
    (o : SourceOptions), s.Executes 10 r rest → r.fields = f → f.length = 13 →
    (valid ↔ fieldAt f 2 1 ≤ 1 ∧ fieldAt f 3 1 ≤ 1 ∧ fieldAt f 5 4 ≤ 3000000 ∧
      fieldAt f 9 1 ≤ 1 ∧ fieldAt f 10 1 ≤ 15 ∧ fieldAt f 11 1 ≤ 254 ∧ fieldAt f 12 1 ≤ 1) →
    o = { required := fieldAt f 2 1 = 1
          holdPolicy := if fieldAt f 3 1 = 0 then .absent else .hold
          holdLimit := fieldAt f 4 1
          tolerance := fieldAt f 5 4
          reReference := fieldAt f 9 1 = 1
          qualityLimit := fieldAt f 10 1
          stallThreshold := fieldAt f 11 1 + 1
          remoteAllowed := fieldAt f 12 1 = 1 } →
    (¬valid → exec .amendSource s = .next (finishRequest r .badField [] s)) ∧
    (valid → s.knownSource (BitVec.ofNat 16 (fieldAt f 0 2)) = none →
      exec .amendSource s = .next (finishRequest r .notFound [] s)) ∧
    (∀ (i : Nat) (e e' : Entry) (u : State), valid →
      s.knownSource (BitVec.ofNat 16 (fieldAt f 0 2)) = some i → e = s.entry i →
      u = { s.withProcessor .executing with sources := tableInsert i e' s.sources } → ∀ t : State,
      (e.state = .active ∧ o.stallThreshold ≠ e.options.stallThreshold ∧
          o.stallThreshold ≤ e.missCount ∧
          e' = { e with options := o, missCount := o.stallThreshold, state := .stalled, counters :=
            { e.counters with stalls := min (e.counters.stalls + 1) 4294967295 } } ∧
          t = reevaluate (raiseSource i .stalled u) ∨
        e.state = .active ∧
          (o.stallThreshold = e.options.stallThreshold ∨ e.missCount < o.stallThreshold) ∧
          e' = { e with options := o } ∧
          t = (if o.required = e.options.required then u else reevaluate u) ∨
        e.state = .stalled ∧ e' = { e with options := o, missCount :=
          (if o.stallThreshold = e.options.stallThreshold then e.missCount
           else o.stallThreshold) } ∧ t = u ∨
        e.state = .suspended ∧ e' = { e with options := o, missCount :=
          (if o.stallThreshold = e.options.stallThreshold then e.missCount
           else min e.missCount o.stallThreshold) } ∧ t = u ∨
        e.state = .declared ∧ e' = { e with options := o } ∧ t = u) →
      exec .amendSource s = .next (finishRequest r .ok
        (be1 (t.entry i).state.code ++ be4 (t.entry i).missCount) t))

/-- R64 to R66: SUSPEND_SOURCE, RESUME_SOURCE and RETIRE_SOURCE, on the entry their identifier resolves
to (R60). Identifiers 0 and 65,535 resolve to nothing and are answered NOT_FOUND (log 17). The replies'
codes are log 8; what an UNUSED entry keeps is log 5. The identifier map holds the identifiers of the
entries that are not UNUSED (R56), and an identifier resolves where the map holds it and its entry is
not RETIRING (R60). -/
def Obligations.SuspendResumeAndRetireMoveTheEntryState : Prop :=
  (∀ (s : State) (id : Word16),
    (mappedEntry id s.sources = none ↔
      ∀ p ∈ s.sources, p.2.state ≠ .unused → p.2.id ≠ id) ∧
    (∀ i e, mappedEntry id s.sources = some (i, e) →
      (i, e) ∈ s.sources ∧ e.state ≠ .unused ∧ e.id = id) ∧
    ∀ i, s.knownSource id = some i ↔
      ∃ e, mappedEntry id s.sources = some (i, e) ∧ e.state ≠ .retiring) ∧
  ∀ (s : State) (r : Request) (rest : List Request), r.fields.length = 2 →
    (s.knownSource (BitVec.ofNat 16 (fieldAt r.fields 0 2)) = none →
      (s.Executes 12 r rest → exec .suspendSource s = .next (finishRequest r .notFound [] s)) ∧
      (s.Executes 13 r rest → exec .resumeSource s = .next (finishRequest r .notFound [] s)) ∧
      (s.Executes 11 r rest → exec .retireSource s = .next (finishRequest r .notFound [] s))) ∧
    (∀ (i : Nat) (e : Entry), s.knownSource (BitVec.ofNat 16 (fieldAt r.fields 0 2)) = some i →
      e = s.entry i →
      (s.Executes 12 r rest → ∀ u,
        u = { s.withProcessor .executing with
          sources := tableInsert i { e with state := .suspended } s.sources } →
        (e.state = .suspended →
          exec .suspendSource s = .next (finishRequest r .ok [1] s)) ∧
        (e.state = .declared ∨ e.state = .stalled →
          exec .suspendSource s = .next (finishRequest r .ok [0] u)) ∧
        (e.state = .active →
          exec .suspendSource s = .next (finishRequest r .ok [0] (reevaluate u)))) ∧
      (s.Executes 13 r rest →
        (e.state = .suspended → exec .resumeSource s = .next (finishRequest r .ok [0]
          { s with sources :=
            tableInsert i { e with state := .declared, missCount := 0 } s.sources })) ∧
        (e.state ≠ .suspended →
          exec .resumeSource s = .next (finishRequest r .ok [1] s))) ∧
      (s.Executes 11 r rest → ∀ named remains : Prop,
        (named ↔ ∃ v d, ((s.view v).current = some d ∨
          ∃ st, (s.view v).staged = some st ∧ st.content = some d) ∧
          ∃ x ∈ d.sources, x.source = i) →
        (remains ↔ ∃ newest base, e.receipt.newest = some newest ∧
          s.windowBase = some base ∧ base ≤ newest) →
        (named → exec .retireSource s = .next (finishRequest r .inUse [] s)) ∧
        (¬named → e.state ≠ .unused → e.state ≠ .retiring → ∀ u,
          (remains ∧ u = { s.withProcessor .executing with
              sources := tableInsert i { e with state := .retiring } s.sources } ∨
            ¬remains ∧ u = (((s.withProcessor .executing).setEntry i
              { Entry.unused with counters := e.counters }).emptyHold i)) →
          ∀ code : Byte, (remains → code = 5) → (¬remains → code = 0) →
          (e.state = .active →
            exec .retireSource s = .next (finishRequest r .ok [code] (reevaluate u))) ∧
          (e.state ≠ .active →
            exec .retireSource s = .next (finishRequest r .ok [code] u)))))

/-- R135 to R137, R139: STAGE_VIEW checks its descriptor, and takes effect at once in IDLE or is
staged; CANCEL_VIEW removes a staged descriptor. The descriptor is the request's own fields, with the
shift clamped at 8 (R16). The replies' codes are log 8. -/
def Obligations.ViewRequestsStageAndCancel : Prop :=
  ∀ (s : State) (r : Request) (rest : List Request) (f : List Byte) (v : ViewId), r.fields = f →
    (s.Executes 15 r rest → 16 ≤ f.length → f.length = 16 + 5 * (fieldAt f 15 1 + 1) →
      ∀ (d : Descriptor) (valid : Prop),
      d = { tag := fieldAt f 6 1
            divisor := fieldAt f 7 1
            destination := if fieldAt f 8 1 = 0 then .rl0 else if fieldAt f 8 1 = 1 then .rl1 else .cl
            completeOnly := fieldAt f 9 1 = 1
            angleForm := if fieldAt f 10 1 = 0 then .bin16 else .cdeg
            magnitudeForm := if fieldAt f 11 1 = 0 then .m24 else .m16
            shift := min (fieldAt f 12 1) 8
            order := if fieldAt f 13 1 = 0 then .big else .little
            includeFrequency := fieldAt f 14 1 = 1
            sources := (List.range (fieldAt f 15 1 + 1)).map fun k =>
              { source := fieldAt f (16 + 5 * k) 2
                phasors := BitVec.ofNat 16 (fieldAt f (18 + 5 * k) 2)
                analogs := BitVec.ofNat 8 (fieldAt f (20 + 5 * k) 1) } } →
      (valid ↔ fieldAt f 0 1 ≤ 7 ∧ fieldAt f 1 1 ≤ 1 ∧ (fieldAt f 1 1 = 0 →
        d.tag ≠ 0 ∧ d.divisor ≠ 0 ∧ d.divisor ≤ s.grid.rate ∧ s.grid.rate % d.divisor = 0 ∧
        fieldAt f 8 1 ≤ 2 ∧ fieldAt f 9 1 ≤ 1 ∧ fieldAt f 10 1 ≤ 1 ∧ fieldAt f 11 1 ≤ 1 ∧
        fieldAt f 13 1 ≤ 1 ∧ fieldAt f 14 1 ≤ 1 ∧ (∀ e ∈ d.sources, e.source ≤ 1023) ∧
        (d.sources.map (·.source)).Nodup)) →
      (¬valid → exec .stageView s = .next (finishRequest r .badField [] s)) ∧
      (valid → fieldAt f 0 1 = v.index → ∀ (content : Option Descriptor) (known : Prop),
        (known ↔ (fieldAt f 1 1 = 1 ∧ (s.view v).current ≠ none) ∨ fieldAt f 1 1 = 0 ∧
          ∀ e ∈ d.sources, (s.entry e.source).state ≠ .unused ∧
            (s.entry e.source).state ≠ .retiring) →
        (fieldAt f 1 1 = 1 → content = none) → (fieldAt f 1 1 = 0 → content = some d) →
        (¬known → exec .stageView s = .next (finishRequest r .notFound [] s)) ∧
        (known → ∀ replaced : Byte, replaced = (if (s.view v).staged = none then 0 else 1) →
          (s.reporting.opState = .idle →
            exec .stageView s = .next (finishRequest r .ok
              (be1 v.index ++ [0] ++ [replaced] ++ be2 ((s.view v).revision + 1).toNat ++
                be4 (fieldAt f 2 4) ++ be1 (min (fieldAt f 12 1) 8))
              (s.modifyView v fun w =>
                { w with current := content, staged := none, revision := w.revision + 1 }))) ∧
          (s.reporting.opState ≠ .idle →
            exec .stageView s = .next (finishRequest r .ok
              (be1 v.index ++ [1] ++ [replaced] ++ be2 (s.view v).revision.toNat ++
                be4 (fieldAt f 2 4) ++ be1 (min (fieldAt f 12 1) 8))
              (s.modifyView v fun w =>
                { w with staged := some ⟨fieldAt f 2 4, content⟩ })))))) ∧
    (s.Executes 16 r rest → f.length = 1 →
      (8 ≤ fieldAt f 0 1 → exec .cancelView s = .next (finishRequest r .badField [] s)) ∧
      (fieldAt f 0 1 = v.index →
        ((s.view v).staged = none →
          exec .cancelView s = .next (finishRequest r .notFound [] s)) ∧
        ((s.view v).staged ≠ none →
          exec .cancelView s = .next (finishRequest r .ok
            ([if (s.view v).current = none then 0 else 1] ++ be2 (s.view v).revision.toNat)
            (s.modifyView v fun w => { w with staged := none })))))

/-- R99, R110, R112, R161, R168 to R170: START, STOP and RELEASE_THROUGH; and the end of the drain, which
makes the STOP's reply and frees the processor, or leaves the reply to the next free place. STOP and
RELEASE_THROUGH make their closes oldest first, then what follows a close (log 10). The reply
bytes are log 8: the horizon has no presence byte. That an idle line chooses after the STOP's effect is
log 9. -/
def Obligations.StartStopAndReleaseThroughMoveTheWindow : Prop :=
  ∀ (s : State) (r : Request) (rest : List Request), tableSorted s.window.slots →
    (s.Executes 20 r rest → r.fields = [] → s.reporting.opState = .idle →
      (s.time.quality = .unset → exec .start s = .next (finishRequest r .noTime [] s)) ∧
      (s.time.quality ≠ .unset → ∀ now horizon : Nat, now = s.time.grains / s.grid.period →
        horizon = (s.window.horizon.elim now fun h => max h now) →
        exec .start s = .next (finishRequest r .ok
          (be8 horizon ++ be4 s.time.second ++ be1 s.time.quality.code)
          { s with
            time := { s.time with cadenceMark := some now }
            window := { s.window with horizon := some horizon }
            reporting := { s.reporting with opState := .running, startMark := true } }))) ∧
    (s.Executes 21 r rest → r.fields = [] → s.reporting.opState = .running →
      ∀ (u : State) (closes : List Nat), closes.Pairwise (· < ·) →
      (∀ k, k ∈ closes ↔ ∃ slot, s.slot? k = some slot ∧ slot.unclosed = true) →
      u = { s.withProcessor .executing with
        reporting := { s.reporting with opState := .draining }
        time := { s.time with cadenceMark := none } } →
      ∃ t : State, exec .stop s = .next (transmitChoice (drainEnd t)) ∧
        t = (settle (closes.foldl (fun w k => closeSlot k .stop w) u)).withProcessor
          .awaitingDrain ∧
        t.window.horizon = (if closes = [] then s.window.horizon else closes.getLast?) ∧
        t.window.assemblyQueue = (if s.assembler.current = none
          then (s.window.assemblyQueue ++ closes).drop 1 else s.window.assemblyQueue ++ closes) ∧
        t.reporting.opState = .draining ∧ t.time = { s.time with cadenceMark := none } ∧
        t.command = { s.command with processor := .awaitingDrain } ∧ t.release = s.release ∧
        ∀ k slot, s.slot? k = some slot → ∃ slot', t.slot? k = some slot' ∧
          slot'.unclosed = false ∧ slot'.contributors = slot.contributors ∧
          (slot.unclosed = true → slot'.closeReason = some .stop) ∧
          (slot.unclosed = false → slot'.closeReason = slot.closeReason)) ∧
    (s.reporting.opState ≠ .draining ∨ s.window.assemblyQueue ≠ [] ∨
        s.assembler.current ≠ none → drainEnd s = s) ∧
    (∀ u : State, s.reporting.opState = .draining → s.window.assemblyQueue = [] →
      s.assembler.current = none →
      u = { s with reporting := { s.reporting with opState := .idle } } →
      (s.command.processor ≠ .awaitingDrain ∨ 8 ≤ s.command.replies.length → drainEnd s = u) ∧
      (s.command.processor = .awaitingDrain → s.command.replies.length < 8 →
        s.command.requests = r :: rest →
        drainEnd s = transmitChoice { u with command := { s.command with
          replies := s.command.replies ++ [⟨r.code, r.tag, .ok, []⟩]
          requests := rest
          processor := .free } })) ∧
    (s.Executes 22 r rest → r.fields.length = 8 → s.reporting.opState = .running →
      s.window.config.mode = .demand → ∀ b, b = min (fieldAt r.fields 0 8)
        (s.time.grains / s.grid.period) →
      ∀ closes : List Nat, closes.Pairwise (· < ·) →
      (∀ k, k ∈ closes ↔ k ≤ b ∧ ∃ slot, s.slot? k = some slot ∧ slot.unclosed = true) →
      ∃ t, exec .releaseThrough s = .next (finishRequest r .ok
          (be8 b ++ be4 closes.length ++ be8 (t.window.horizon.getD 0)) t) ∧
        t = settle (closes.foldl (fun w k => closeSlot k .demand w) (s.withProcessor .executing)) ∧
        t.window.assemblyQueue = (if s.assembler.current = none
          then (s.window.assemblyQueue ++ closes).drop 1 else s.window.assemblyQueue ++ closes) ∧
        (∀ k slot, s.slot? k = some slot → ∃ slot', t.slot? k = some slot' ∧
          slot'.contributors = slot.contributors ∧
          (slot.unclosed = true → k ≤ b →
            slot'.unclosed = false ∧ slot'.closeReason = some .demand) ∧
          (s.Bounded → slot.unclosed = true → b < k → slot'.unclosed = true) ∧
          (slot.unclosed = false → slot'.unclosed = false) ∧
          (slot.unclosed = false ∨ b < k → slot'.closeReason = slot.closeReason)) ∧
        ((∀ k slot, s.slot? k = some slot → slot.unclosed = true → b < k) →
          t.window.horizon = s.window.horizon) ∧
        (∀ k slot, s.slot? k = some slot → slot.unclosed = true → k ≤ b →
          (∀ j other, s.slot? j = some other → other.unclosed = true → j ≤ b → j ≤ k) →
          t.window.horizon = some k))

/-- R74, R119, R120, R154, R162, R171, R176, R178, R182: RESET_WINDOW, RESET_DEVICE, CLEAR_COUNTERS,
CLEAR_FAULTS and SET_NOTICES; and ALERT, which follows the start mark, the fault flags and their enables
at once, driven low while asserted (R177, R179, R188). RESET_WINDOW keeps the Command Link and Reporting,
the notice queue among it (R155, R171); the line chooses when its reply joins the reply list (R164; log 9).
What an UNUSED entry keeps is log 5, the layout of the replies log 8. -/
def Obligations.ResetsAndClearsActOnWhatTheyName : Prop :=
  (∀ s : State,
    (s.alert = true ↔ s.reporting.startMark = false ∨
      ∃ g, s.flag g = true ∧ s.reporting.alertEnables.get g = true) ∧
    s.alertHigh = !s.alert ∧
    ∀ g : FaultFlag, setFlag g s =
        { s with reporting := { s.reporting with faults := (setFlag g s).reporting.faults } } ∧
      ∀ h : FaultFlag, (setFlag g s).flag h = (decide (h = g) || s.flag h)) ∧
  (∀ f : FlagSet, f.toList = [FaultFlag.storeExhausted, .pressure, .overrun, .releaseDrop,
    .ingestOverflow, .noticeLoss, .commandOverflow, .timeFreeRun].map f.get) ∧
  ∀ (s : State) (r : Request) (rest : List Request) (f : List Byte), r.fields = f →
    (s.Executes 24 r rest → f = [] → s.reporting.opState = .idle →
      ∃ u, exec .resetWindow s = .next (finishRequest r .ok [] u) ∧
        u = { s with
          sources := u.sources
          window := { s.window with
            slots := [], horizon := none, freeRecords := 65536, assemblyQueue := [] }
          assembler := { current := none, dispositions := [], nextView := none, holdBank := [] }
          release := { s.release with
            queue0 := u.release.queue0
            queue1 := u.release.queue1
            commandQueue := u.release.commandQueue } } ∧
        (∀ (p : Destination) (q : ReleaseQueue), q = s.release.queue p →
          (q.sending = false → u.release.queue p =
            { q with sets := [], counters :=
              { q.counters with
                flushed := min (q.counters.flushed + q.sets.length) 4294967295 } }) ∧
          (∀ o others, q.sending = true → q.sets = o :: others → u.release.queue p =
            { sets := [], sending := false, counters :=
              { q.counters with
                cut := min (q.counters.cut + 1) 4294967295
                flushed := min (q.counters.flushed + others.length) 4294967295 } })) ∧
        (∀ i (e : Entry), e = s.entry i →
          (e.state = .unused → u.entry i = e) ∧
          (e.state = .retiring → u.entry i = { Entry.unused with counters := e.counters }) ∧
          (e.state = .declared ∨ e.state = .suspended → u.entry i =
            { e with receipt := .clear, missCount := 0, heldCount := 0 }) ∧
          (e.state = .active ∨ e.state = .stalled → u.entry i =
            { e with state := .declared, receipt := .clear, missCount := 0, heldCount := 0 }))) ∧
    (s.Executes 25 r rest → f = [] →
      exec .resetDevice s = .next (transmitChoice { s with command := { s.command with
        processor := .awaitingReset
        replies := s.command.replies ++ [⟨r.code, r.tag, .ok, []⟩] } })) ∧
    (s.Executes 26 r rest → f = [] →
      ∃ t, exec .clearCounters s = .next (finishRequest r .ok [] t) ∧
        (∀ l, t.link l = { s.link l with counters := {} }) ∧
        (∀ i, t.entry i = { s.entry i with counters := {} }) ∧
        t.window = { s.window with counters := {} } ∧
        (∀ v, t.view v = { s.view v with setsBuilt := 0, skippedIncomplete := 0 }) ∧
        (∀ d, t.release.queue d = { s.release.queue d with counters := {} }) ∧
        t.command = { s.command with counters := {} } ∧
        t.reporting = { s.reporting with lostNotices := 0 } ∧
        t.time = s.time ∧ t.grid = s.grid ∧ t.ingest = s.ingest ∧ t.assembler = s.assembler ∧
        t.pins = s.pins ∧ t.release.enabled0 = s.release.enabled0 ∧
        t.release.enabled1 = s.release.enabled1) ∧
    (s.Executes 27 r rest → f.length = 8 →
      ((∃ k, k < 8 ∧ 2 ≤ fieldAt f k 1) →
        exec .clearFaults s = .next (finishRequest r .badField [] s)) ∧
      ((∀ k, k < 8 → fieldAt f k 1 ≤ 1) → ∃ faults,
        exec .clearFaults s = .next (finishRequest r .ok
          (flagBytes s.reporting.faults ++ flagBytes faults)
          { s with reporting := { s.reporting with faults := faults } }) ∧
        ∀ g : FaultFlag, faults.get g = (s.flag g && decide (fieldAt f g.index 1 = 0)))) ∧
    (s.Executes 28 r rest → f.length = 20 → ∀ valid : Prop,
      (valid ↔ (∀ k, k < 6 → fieldAt f (2 * k) 1 ≤ 1 ∧ fieldAt f (2 * k + 1) 1 ≤ 3) ∧
        ∀ k, k < 8 → fieldAt f (12 + k) 1 ≤ 1) →
      (¬valid → exec .setNotices s = .next (finishRequest r .badField [] s)) ∧
      (valid → ∃ classes enables,
        exec .setNotices s = .next (finishRequest r .ok
          (f ++ be4 s.reporting.notices.length ++ be4 s.reporting.lostNotices)
          { s with reporting :=
            { s.reporting with classes := classes, alertEnables := enables } }) ∧
        (∀ c : NoticeClass, classes.get c =
          { masked := fieldAt f (2 * c.code) 1 = 1, priority := fieldAt f (2 * c.code + 1) 1 }) ∧
        ∀ g : FaultFlag, enables.get g = decide (fieldAt f (12 + g.index) 1 = 1)))

end
end

