-- ==== Sys2Proof/Laws/State.lean ====
section
/-! SUPPORT. The updates of State, one lemma per field each leaves alone, and what each writes. -/

namespace Sys2Proof.Machine

/-- A fold keeps what each of its steps keeps. -/
theorem foldl_keep {α β γ : Type} {f : α → β → α} (g : α → γ) (h : ∀ a b, g (f a b) = g a)
    (l : List β) (a : α) : g (l.foldl f a) = g a := by
  induction l generalizing a with
  | nil => rfl
  | cons b l ih => rw [List.foldl_cons, ih, h]

/-! `State.setEntry` changes at most: sources. -/
@[simp] theorem State.setEntry_time (s : State) (i : Nat) (e : Entry) :
    (s.setEntry i e).time = s.time := rfl
@[simp] theorem State.setEntry_grid (s : State) (i : Nat) (e : Entry) :
    (s.setEntry i e).grid = s.grid := rfl
@[simp] theorem State.setEntry_links (s : State) (i : Nat) (e : Entry) :
    (s.setEntry i e).links = s.links := rfl
@[simp] theorem State.setEntry_ingest (s : State) (i : Nat) (e : Entry) :
    (s.setEntry i e).ingest = s.ingest := rfl
@[simp] theorem State.setEntry_window (s : State) (i : Nat) (e : Entry) :
    (s.setEntry i e).window = s.window := rfl
@[simp] theorem State.setEntry_assembler (s : State) (i : Nat) (e : Entry) :
    (s.setEntry i e).assembler = s.assembler := rfl
@[simp] theorem State.setEntry_views (s : State) (i : Nat) (e : Entry) :
    (s.setEntry i e).views = s.views := rfl
@[simp] theorem State.setEntry_release (s : State) (i : Nat) (e : Entry) :
    (s.setEntry i e).release = s.release := rfl
@[simp] theorem State.setEntry_command (s : State) (i : Nat) (e : Entry) :
    (s.setEntry i e).command = s.command := rfl
@[simp] theorem State.setEntry_reporting (s : State) (i : Nat) (e : Entry) :
    (s.setEntry i e).reporting = s.reporting := rfl
@[simp] theorem State.setEntry_pins (s : State) (i : Nat) (e : Entry) :
    (s.setEntry i e).pins = s.pins := rfl
@[simp] theorem State.setEntry_freeCount (s : State) (i : Nat) (e : Entry) :
    (s.setEntry i e).freeCount = s.freeCount := rfl
@[simp] theorem State.setEntry_pending (s : State) (i : Nat) (e : Entry) :
    (s.setEntry i e).pending = s.pending := rfl

/-! `State.modifyEntry` changes at most: sources. -/
@[simp] theorem State.modifyEntry_time (s : State) (i : Nat) (g : Entry → Entry) :
    (s.modifyEntry i g).time = s.time := rfl
@[simp] theorem State.modifyEntry_grid (s : State) (i : Nat) (g : Entry → Entry) :
    (s.modifyEntry i g).grid = s.grid := rfl
@[simp] theorem State.modifyEntry_links (s : State) (i : Nat) (g : Entry → Entry) :
    (s.modifyEntry i g).links = s.links := rfl
@[simp] theorem State.modifyEntry_ingest (s : State) (i : Nat) (g : Entry → Entry) :
    (s.modifyEntry i g).ingest = s.ingest := rfl
@[simp] theorem State.modifyEntry_window (s : State) (i : Nat) (g : Entry → Entry) :
    (s.modifyEntry i g).window = s.window := rfl
@[simp] theorem State.modifyEntry_assembler (s : State) (i : Nat) (g : Entry → Entry) :
    (s.modifyEntry i g).assembler = s.assembler := rfl
@[simp] theorem State.modifyEntry_views (s : State) (i : Nat) (g : Entry → Entry) :
    (s.modifyEntry i g).views = s.views := rfl
@[simp] theorem State.modifyEntry_release (s : State) (i : Nat) (g : Entry → Entry) :
    (s.modifyEntry i g).release = s.release := rfl
@[simp] theorem State.modifyEntry_command (s : State) (i : Nat) (g : Entry → Entry) :
    (s.modifyEntry i g).command = s.command := rfl
@[simp] theorem State.modifyEntry_reporting (s : State) (i : Nat) (g : Entry → Entry) :
    (s.modifyEntry i g).reporting = s.reporting := rfl
@[simp] theorem State.modifyEntry_pins (s : State) (i : Nat) (g : Entry → Entry) :
    (s.modifyEntry i g).pins = s.pins := rfl
@[simp] theorem State.modifyEntry_freeCount (s : State) (i : Nat) (g : Entry → Entry) :
    (s.modifyEntry i g).freeCount = s.freeCount := rfl
@[simp] theorem State.modifyEntry_pending (s : State) (i : Nat) (g : Entry → Entry) :
    (s.modifyEntry i g).pending = s.pending := rfl

/-! `State.countSource` changes at most: sources. -/
@[simp] theorem State.countSource_time (s : State) (i : Nat) (g : SourceCounters → SourceCounters) :
    (s.countSource i g).time = s.time := rfl
@[simp] theorem State.countSource_grid (s : State) (i : Nat) (g : SourceCounters → SourceCounters) :
    (s.countSource i g).grid = s.grid := rfl
@[simp] theorem State.countSource_links (s : State) (i : Nat) (g : SourceCounters → SourceCounters) :
    (s.countSource i g).links = s.links := rfl
@[simp] theorem State.countSource_ingest (s : State) (i : Nat) (g : SourceCounters → SourceCounters) :
    (s.countSource i g).ingest = s.ingest := rfl
@[simp] theorem State.countSource_window (s : State) (i : Nat) (g : SourceCounters → SourceCounters) :
    (s.countSource i g).window = s.window := rfl
@[simp] theorem State.countSource_assembler (s : State) (i : Nat) (g : SourceCounters → SourceCounters) :
    (s.countSource i g).assembler = s.assembler := rfl
@[simp] theorem State.countSource_views (s : State) (i : Nat) (g : SourceCounters → SourceCounters) :
    (s.countSource i g).views = s.views := rfl
@[simp] theorem State.countSource_release (s : State) (i : Nat) (g : SourceCounters → SourceCounters) :
    (s.countSource i g).release = s.release := rfl
@[simp] theorem State.countSource_command (s : State) (i : Nat) (g : SourceCounters → SourceCounters) :
    (s.countSource i g).command = s.command := rfl
@[simp] theorem State.countSource_reporting (s : State) (i : Nat) (g : SourceCounters → SourceCounters) :
    (s.countSource i g).reporting = s.reporting := rfl
@[simp] theorem State.countSource_pins (s : State) (i : Nat) (g : SourceCounters → SourceCounters) :
    (s.countSource i g).pins = s.pins := rfl
@[simp] theorem State.countSource_freeCount (s : State) (i : Nat) (g : SourceCounters → SourceCounters) :
    (s.countSource i g).freeCount = s.freeCount := rfl
@[simp] theorem State.countSource_pending (s : State) (i : Nat) (g : SourceCounters → SourceCounters) :
    (s.countSource i g).pending = s.pending := rfl

/-! `State.modifyLink` changes at most: links. -/
@[simp] theorem State.modifyLink_time (s : State) (l : LinkId) (g : IngestLink → IngestLink) :
    (s.modifyLink l g).time = s.time := rfl
@[simp] theorem State.modifyLink_grid (s : State) (l : LinkId) (g : IngestLink → IngestLink) :
    (s.modifyLink l g).grid = s.grid := rfl
@[simp] theorem State.modifyLink_ingest (s : State) (l : LinkId) (g : IngestLink → IngestLink) :
    (s.modifyLink l g).ingest = s.ingest := rfl
@[simp] theorem State.modifyLink_sources (s : State) (l : LinkId) (g : IngestLink → IngestLink) :
    (s.modifyLink l g).sources = s.sources := rfl
@[simp] theorem State.modifyLink_window (s : State) (l : LinkId) (g : IngestLink → IngestLink) :
    (s.modifyLink l g).window = s.window := rfl
@[simp] theorem State.modifyLink_assembler (s : State) (l : LinkId) (g : IngestLink → IngestLink) :
    (s.modifyLink l g).assembler = s.assembler := rfl
@[simp] theorem State.modifyLink_views (s : State) (l : LinkId) (g : IngestLink → IngestLink) :
    (s.modifyLink l g).views = s.views := rfl
@[simp] theorem State.modifyLink_release (s : State) (l : LinkId) (g : IngestLink → IngestLink) :
    (s.modifyLink l g).release = s.release := rfl
@[simp] theorem State.modifyLink_command (s : State) (l : LinkId) (g : IngestLink → IngestLink) :
    (s.modifyLink l g).command = s.command := rfl
@[simp] theorem State.modifyLink_reporting (s : State) (l : LinkId) (g : IngestLink → IngestLink) :
    (s.modifyLink l g).reporting = s.reporting := rfl
@[simp] theorem State.modifyLink_pins (s : State) (l : LinkId) (g : IngestLink → IngestLink) :
    (s.modifyLink l g).pins = s.pins := rfl
@[simp] theorem State.modifyLink_freeCount (s : State) (l : LinkId) (g : IngestLink → IngestLink) :
    (s.modifyLink l g).freeCount = s.freeCount := rfl
@[simp] theorem State.modifyLink_pending (s : State) (l : LinkId) (g : IngestLink → IngestLink) :
    (s.modifyLink l g).pending = s.pending := rfl

/-! `State.countLink` changes at most: links. -/
@[simp] theorem State.countLink_time (s : State) (l : LinkId) (g : LinkCounters → LinkCounters) :
    (s.countLink l g).time = s.time := rfl
@[simp] theorem State.countLink_grid (s : State) (l : LinkId) (g : LinkCounters → LinkCounters) :
    (s.countLink l g).grid = s.grid := rfl
@[simp] theorem State.countLink_ingest (s : State) (l : LinkId) (g : LinkCounters → LinkCounters) :
    (s.countLink l g).ingest = s.ingest := rfl
@[simp] theorem State.countLink_sources (s : State) (l : LinkId) (g : LinkCounters → LinkCounters) :
    (s.countLink l g).sources = s.sources := rfl
@[simp] theorem State.countLink_window (s : State) (l : LinkId) (g : LinkCounters → LinkCounters) :
    (s.countLink l g).window = s.window := rfl
@[simp] theorem State.countLink_assembler (s : State) (l : LinkId) (g : LinkCounters → LinkCounters) :
    (s.countLink l g).assembler = s.assembler := rfl
@[simp] theorem State.countLink_views (s : State) (l : LinkId) (g : LinkCounters → LinkCounters) :
    (s.countLink l g).views = s.views := rfl
@[simp] theorem State.countLink_release (s : State) (l : LinkId) (g : LinkCounters → LinkCounters) :
    (s.countLink l g).release = s.release := rfl
@[simp] theorem State.countLink_command (s : State) (l : LinkId) (g : LinkCounters → LinkCounters) :
    (s.countLink l g).command = s.command := rfl
@[simp] theorem State.countLink_reporting (s : State) (l : LinkId) (g : LinkCounters → LinkCounters) :
    (s.countLink l g).reporting = s.reporting := rfl
@[simp] theorem State.countLink_pins (s : State) (l : LinkId) (g : LinkCounters → LinkCounters) :
    (s.countLink l g).pins = s.pins := rfl
@[simp] theorem State.countLink_freeCount (s : State) (l : LinkId) (g : LinkCounters → LinkCounters) :
    (s.countLink l g).freeCount = s.freeCount := rfl
@[simp] theorem State.countLink_pending (s : State) (l : LinkId) (g : LinkCounters → LinkCounters) :
    (s.countLink l g).pending = s.pending := rfl

/-! `State.modifyView` changes at most: views. -/
@[simp] theorem State.modifyView_time (s : State) (v : ViewId) (g : View → View) :
    (s.modifyView v g).time = s.time := rfl
@[simp] theorem State.modifyView_grid (s : State) (v : ViewId) (g : View → View) :
    (s.modifyView v g).grid = s.grid := rfl
@[simp] theorem State.modifyView_links (s : State) (v : ViewId) (g : View → View) :
    (s.modifyView v g).links = s.links := rfl
@[simp] theorem State.modifyView_ingest (s : State) (v : ViewId) (g : View → View) :
    (s.modifyView v g).ingest = s.ingest := rfl
@[simp] theorem State.modifyView_sources (s : State) (v : ViewId) (g : View → View) :
    (s.modifyView v g).sources = s.sources := rfl
@[simp] theorem State.modifyView_window (s : State) (v : ViewId) (g : View → View) :
    (s.modifyView v g).window = s.window := rfl
@[simp] theorem State.modifyView_assembler (s : State) (v : ViewId) (g : View → View) :
    (s.modifyView v g).assembler = s.assembler := rfl
@[simp] theorem State.modifyView_release (s : State) (v : ViewId) (g : View → View) :
    (s.modifyView v g).release = s.release := rfl
@[simp] theorem State.modifyView_command (s : State) (v : ViewId) (g : View → View) :
    (s.modifyView v g).command = s.command := rfl
@[simp] theorem State.modifyView_reporting (s : State) (v : ViewId) (g : View → View) :
    (s.modifyView v g).reporting = s.reporting := rfl
@[simp] theorem State.modifyView_pins (s : State) (v : ViewId) (g : View → View) :
    (s.modifyView v g).pins = s.pins := rfl
@[simp] theorem State.modifyView_freeCount (s : State) (v : ViewId) (g : View → View) :
    (s.modifyView v g).freeCount = s.freeCount := rfl
@[simp] theorem State.modifyView_pending (s : State) (v : ViewId) (g : View → View) :
    (s.modifyView v g).pending = s.pending := rfl

/-! `State.emptyHold` changes at most: assembler. -/
@[simp] theorem State.emptyHold_time (s : State) (i : Nat) :
    (s.emptyHold i).time = s.time := rfl
@[simp] theorem State.emptyHold_grid (s : State) (i : Nat) :
    (s.emptyHold i).grid = s.grid := rfl
@[simp] theorem State.emptyHold_links (s : State) (i : Nat) :
    (s.emptyHold i).links = s.links := rfl
@[simp] theorem State.emptyHold_ingest (s : State) (i : Nat) :
    (s.emptyHold i).ingest = s.ingest := rfl
@[simp] theorem State.emptyHold_sources (s : State) (i : Nat) :
    (s.emptyHold i).sources = s.sources := rfl
@[simp] theorem State.emptyHold_window (s : State) (i : Nat) :
    (s.emptyHold i).window = s.window := rfl
@[simp] theorem State.emptyHold_views (s : State) (i : Nat) :
    (s.emptyHold i).views = s.views := rfl
@[simp] theorem State.emptyHold_release (s : State) (i : Nat) :
    (s.emptyHold i).release = s.release := rfl
@[simp] theorem State.emptyHold_command (s : State) (i : Nat) :
    (s.emptyHold i).command = s.command := rfl
@[simp] theorem State.emptyHold_reporting (s : State) (i : Nat) :
    (s.emptyHold i).reporting = s.reporting := rfl
@[simp] theorem State.emptyHold_pins (s : State) (i : Nat) :
    (s.emptyHold i).pins = s.pins := rfl
@[simp] theorem State.emptyHold_freeCount (s : State) (i : Nat) :
    (s.emptyHold i).freeCount = s.freeCount := rfl
@[simp] theorem State.emptyHold_pending (s : State) (i : Nat) :
    (s.emptyHold i).pending = s.pending := rfl

/-! `State.countWindow` changes at most: window. -/
@[simp] theorem State.countWindow_time (s : State) (g : WindowCounters → WindowCounters) :
    (s.countWindow g).time = s.time := rfl
@[simp] theorem State.countWindow_grid (s : State) (g : WindowCounters → WindowCounters) :
    (s.countWindow g).grid = s.grid := rfl
@[simp] theorem State.countWindow_links (s : State) (g : WindowCounters → WindowCounters) :
    (s.countWindow g).links = s.links := rfl
@[simp] theorem State.countWindow_ingest (s : State) (g : WindowCounters → WindowCounters) :
    (s.countWindow g).ingest = s.ingest := rfl
@[simp] theorem State.countWindow_sources (s : State) (g : WindowCounters → WindowCounters) :
    (s.countWindow g).sources = s.sources := rfl
@[simp] theorem State.countWindow_assembler (s : State) (g : WindowCounters → WindowCounters) :
    (s.countWindow g).assembler = s.assembler := rfl
@[simp] theorem State.countWindow_views (s : State) (g : WindowCounters → WindowCounters) :
    (s.countWindow g).views = s.views := rfl
@[simp] theorem State.countWindow_release (s : State) (g : WindowCounters → WindowCounters) :
    (s.countWindow g).release = s.release := rfl
@[simp] theorem State.countWindow_command (s : State) (g : WindowCounters → WindowCounters) :
    (s.countWindow g).command = s.command := rfl
@[simp] theorem State.countWindow_reporting (s : State) (g : WindowCounters → WindowCounters) :
    (s.countWindow g).reporting = s.reporting := rfl
@[simp] theorem State.countWindow_pins (s : State) (g : WindowCounters → WindowCounters) :
    (s.countWindow g).pins = s.pins := rfl
@[simp] theorem State.countWindow_freeCount (s : State) (g : WindowCounters → WindowCounters) :
    (s.countWindow g).freeCount = s.freeCount := rfl
@[simp] theorem State.countWindow_pending (s : State) (g : WindowCounters → WindowCounters) :
    (s.countWindow g).pending = s.pending := rfl

/-! `State.countCommand` changes at most: command. -/
@[simp] theorem State.countCommand_time (s : State) (g : CommandCounters → CommandCounters) :
    (s.countCommand g).time = s.time := rfl
@[simp] theorem State.countCommand_grid (s : State) (g : CommandCounters → CommandCounters) :
    (s.countCommand g).grid = s.grid := rfl
@[simp] theorem State.countCommand_links (s : State) (g : CommandCounters → CommandCounters) :
    (s.countCommand g).links = s.links := rfl
@[simp] theorem State.countCommand_ingest (s : State) (g : CommandCounters → CommandCounters) :
    (s.countCommand g).ingest = s.ingest := rfl
@[simp] theorem State.countCommand_sources (s : State) (g : CommandCounters → CommandCounters) :
    (s.countCommand g).sources = s.sources := rfl
@[simp] theorem State.countCommand_window (s : State) (g : CommandCounters → CommandCounters) :
    (s.countCommand g).window = s.window := rfl
@[simp] theorem State.countCommand_assembler (s : State) (g : CommandCounters → CommandCounters) :
    (s.countCommand g).assembler = s.assembler := rfl
@[simp] theorem State.countCommand_views (s : State) (g : CommandCounters → CommandCounters) :
    (s.countCommand g).views = s.views := rfl
@[simp] theorem State.countCommand_release (s : State) (g : CommandCounters → CommandCounters) :
    (s.countCommand g).release = s.release := rfl
@[simp] theorem State.countCommand_reporting (s : State) (g : CommandCounters → CommandCounters) :
    (s.countCommand g).reporting = s.reporting := rfl
@[simp] theorem State.countCommand_pins (s : State) (g : CommandCounters → CommandCounters) :
    (s.countCommand g).pins = s.pins := rfl
@[simp] theorem State.countCommand_freeCount (s : State) (g : CommandCounters → CommandCounters) :
    (s.countCommand g).freeCount = s.freeCount := rfl
@[simp] theorem State.countCommand_pending (s : State) (g : CommandCounters → CommandCounters) :
    (s.countCommand g).pending = s.pending := rfl

/-! `State.modifyQueue` changes at most: release. -/
@[simp] theorem State.modifyQueue_time (s : State) (d : Destination) (g : ReleaseQueue → ReleaseQueue) :
    (s.modifyQueue d g).time = s.time := rfl
@[simp] theorem State.modifyQueue_grid (s : State) (d : Destination) (g : ReleaseQueue → ReleaseQueue) :
    (s.modifyQueue d g).grid = s.grid := rfl
@[simp] theorem State.modifyQueue_links (s : State) (d : Destination) (g : ReleaseQueue → ReleaseQueue) :
    (s.modifyQueue d g).links = s.links := rfl
@[simp] theorem State.modifyQueue_ingest (s : State) (d : Destination) (g : ReleaseQueue → ReleaseQueue) :
    (s.modifyQueue d g).ingest = s.ingest := rfl
@[simp] theorem State.modifyQueue_sources (s : State) (d : Destination) (g : ReleaseQueue → ReleaseQueue) :
    (s.modifyQueue d g).sources = s.sources := rfl
@[simp] theorem State.modifyQueue_window (s : State) (d : Destination) (g : ReleaseQueue → ReleaseQueue) :
    (s.modifyQueue d g).window = s.window := rfl
@[simp] theorem State.modifyQueue_assembler (s : State) (d : Destination) (g : ReleaseQueue → ReleaseQueue) :
    (s.modifyQueue d g).assembler = s.assembler := rfl
@[simp] theorem State.modifyQueue_views (s : State) (d : Destination) (g : ReleaseQueue → ReleaseQueue) :
    (s.modifyQueue d g).views = s.views := rfl
@[simp] theorem State.modifyQueue_command (s : State) (d : Destination) (g : ReleaseQueue → ReleaseQueue) :
    (s.modifyQueue d g).command = s.command := rfl
@[simp] theorem State.modifyQueue_reporting (s : State) (d : Destination) (g : ReleaseQueue → ReleaseQueue) :
    (s.modifyQueue d g).reporting = s.reporting := rfl
@[simp] theorem State.modifyQueue_pins (s : State) (d : Destination) (g : ReleaseQueue → ReleaseQueue) :
    (s.modifyQueue d g).pins = s.pins := rfl
@[simp] theorem State.modifyQueue_freeCount (s : State) (d : Destination) (g : ReleaseQueue → ReleaseQueue) :
    (s.modifyQueue d g).freeCount = s.freeCount := rfl
@[simp] theorem State.modifyQueue_pending (s : State) (d : Destination) (g : ReleaseQueue → ReleaseQueue) :
    (s.modifyQueue d g).pending = s.pending := rfl

/-! `State.setEnabled` changes at most: release. -/
@[simp] theorem State.setEnabled_time (s : State) (l : RelId) (b : Bool) :
    (s.setEnabled l b).time = s.time := by cases l <;> rfl
@[simp] theorem State.setEnabled_grid (s : State) (l : RelId) (b : Bool) :
    (s.setEnabled l b).grid = s.grid := by cases l <;> rfl
@[simp] theorem State.setEnabled_links (s : State) (l : RelId) (b : Bool) :
    (s.setEnabled l b).links = s.links := by cases l <;> rfl
@[simp] theorem State.setEnabled_ingest (s : State) (l : RelId) (b : Bool) :
    (s.setEnabled l b).ingest = s.ingest := by cases l <;> rfl
@[simp] theorem State.setEnabled_sources (s : State) (l : RelId) (b : Bool) :
    (s.setEnabled l b).sources = s.sources := by cases l <;> rfl
@[simp] theorem State.setEnabled_window (s : State) (l : RelId) (b : Bool) :
    (s.setEnabled l b).window = s.window := by cases l <;> rfl
@[simp] theorem State.setEnabled_assembler (s : State) (l : RelId) (b : Bool) :
    (s.setEnabled l b).assembler = s.assembler := by cases l <;> rfl
@[simp] theorem State.setEnabled_views (s : State) (l : RelId) (b : Bool) :
    (s.setEnabled l b).views = s.views := by cases l <;> rfl
@[simp] theorem State.setEnabled_command (s : State) (l : RelId) (b : Bool) :
    (s.setEnabled l b).command = s.command := by cases l <;> rfl
@[simp] theorem State.setEnabled_reporting (s : State) (l : RelId) (b : Bool) :
    (s.setEnabled l b).reporting = s.reporting := by cases l <;> rfl
@[simp] theorem State.setEnabled_pins (s : State) (l : RelId) (b : Bool) :
    (s.setEnabled l b).pins = s.pins := by cases l <;> rfl
@[simp] theorem State.setEnabled_freeCount (s : State) (l : RelId) (b : Bool) :
    (s.setEnabled l b).freeCount = s.freeCount := by cases l <;> rfl
@[simp] theorem State.setEnabled_pending (s : State) (l : RelId) (b : Bool) :
    (s.setEnabled l b).pending = s.pending := by cases l <;> rfl

/-! `State.setBusy` changes at most: pins. -/
@[simp] theorem State.setBusy_time (s : State) (l : RelId) (b : Bool) :
    (s.setBusy l b).time = s.time := by cases l <;> rfl
@[simp] theorem State.setBusy_grid (s : State) (l : RelId) (b : Bool) :
    (s.setBusy l b).grid = s.grid := by cases l <;> rfl
@[simp] theorem State.setBusy_links (s : State) (l : RelId) (b : Bool) :
    (s.setBusy l b).links = s.links := by cases l <;> rfl
@[simp] theorem State.setBusy_ingest (s : State) (l : RelId) (b : Bool) :
    (s.setBusy l b).ingest = s.ingest := by cases l <;> rfl
@[simp] theorem State.setBusy_sources (s : State) (l : RelId) (b : Bool) :
    (s.setBusy l b).sources = s.sources := by cases l <;> rfl
@[simp] theorem State.setBusy_window (s : State) (l : RelId) (b : Bool) :
    (s.setBusy l b).window = s.window := by cases l <;> rfl
@[simp] theorem State.setBusy_assembler (s : State) (l : RelId) (b : Bool) :
    (s.setBusy l b).assembler = s.assembler := by cases l <;> rfl
@[simp] theorem State.setBusy_views (s : State) (l : RelId) (b : Bool) :
    (s.setBusy l b).views = s.views := by cases l <;> rfl
@[simp] theorem State.setBusy_release (s : State) (l : RelId) (b : Bool) :
    (s.setBusy l b).release = s.release := by cases l <;> rfl
@[simp] theorem State.setBusy_command (s : State) (l : RelId) (b : Bool) :
    (s.setBusy l b).command = s.command := by cases l <;> rfl
@[simp] theorem State.setBusy_reporting (s : State) (l : RelId) (b : Bool) :
    (s.setBusy l b).reporting = s.reporting := by cases l <;> rfl
@[simp] theorem State.setBusy_freeCount (s : State) (l : RelId) (b : Bool) :
    (s.setBusy l b).freeCount = s.freeCount := by cases l <;> rfl
@[simp] theorem State.setBusy_pending (s : State) (l : RelId) (b : Bool) :
    (s.setBusy l b).pending = s.pending := by cases l <;> rfl

/-! `setFlag` changes at most: reporting. -/
@[simp] theorem setFlag_time (x : FaultFlag) (s : State) :
    (setFlag x s).time = s.time := rfl
@[simp] theorem setFlag_grid (x : FaultFlag) (s : State) :
    (setFlag x s).grid = s.grid := rfl
@[simp] theorem setFlag_links (x : FaultFlag) (s : State) :
    (setFlag x s).links = s.links := rfl
@[simp] theorem setFlag_ingest (x : FaultFlag) (s : State) :
    (setFlag x s).ingest = s.ingest := rfl
@[simp] theorem setFlag_sources (x : FaultFlag) (s : State) :
    (setFlag x s).sources = s.sources := rfl
@[simp] theorem setFlag_window (x : FaultFlag) (s : State) :
    (setFlag x s).window = s.window := rfl
@[simp] theorem setFlag_assembler (x : FaultFlag) (s : State) :
    (setFlag x s).assembler = s.assembler := rfl
@[simp] theorem setFlag_views (x : FaultFlag) (s : State) :
    (setFlag x s).views = s.views := rfl
@[simp] theorem setFlag_release (x : FaultFlag) (s : State) :
    (setFlag x s).release = s.release := rfl
@[simp] theorem setFlag_command (x : FaultFlag) (s : State) :
    (setFlag x s).command = s.command := rfl
@[simp] theorem setFlag_pins (x : FaultFlag) (s : State) :
    (setFlag x s).pins = s.pins := rfl
@[simp] theorem setFlag_freeCount (x : FaultFlag) (s : State) :
    (setFlag x s).freeCount = s.freeCount := rfl
@[simp] theorem setFlag_pending (x : FaultFlag) (s : State) :
    (setFlag x s).pending = s.pending := rfl

end Sys2Proof.Machine
end

