-- ==== Sys2Proof/Laws/Reporting.lean ====
section
/-! SUPPORT. Frames of the transmit arbiter, the notices and the release queues. -/

namespace Sys2Proof.Machine

/-! `makeStopReply` changes at most: command. -/
@[simp] theorem makeStopReply_time (s : State) :
    (makeStopReply s).time = s.time := by unfold makeStopReply; split <;> rfl
@[simp] theorem makeStopReply_grid (s : State) :
    (makeStopReply s).grid = s.grid := by unfold makeStopReply; split <;> rfl
@[simp] theorem makeStopReply_links (s : State) :
    (makeStopReply s).links = s.links := by unfold makeStopReply; split <;> rfl
@[simp] theorem makeStopReply_ingest (s : State) :
    (makeStopReply s).ingest = s.ingest := by unfold makeStopReply; split <;> rfl
@[simp] theorem makeStopReply_sources (s : State) :
    (makeStopReply s).sources = s.sources := by unfold makeStopReply; split <;> rfl
@[simp] theorem makeStopReply_window (s : State) :
    (makeStopReply s).window = s.window := by unfold makeStopReply; split <;> rfl
@[simp] theorem makeStopReply_assembler (s : State) :
    (makeStopReply s).assembler = s.assembler := by unfold makeStopReply; split <;> rfl
@[simp] theorem makeStopReply_views (s : State) :
    (makeStopReply s).views = s.views := by unfold makeStopReply; split <;> rfl
@[simp] theorem makeStopReply_release (s : State) :
    (makeStopReply s).release = s.release := by unfold makeStopReply; split <;> rfl
@[simp] theorem makeStopReply_reporting (s : State) :
    (makeStopReply s).reporting = s.reporting := by unfold makeStopReply; split <;> rfl
@[simp] theorem makeStopReply_pins (s : State) :
    (makeStopReply s).pins = s.pins := by unfold makeStopReply; split <;> rfl
@[simp] theorem makeStopReply_freeCount (s : State) :
    (makeStopReply s).freeCount = s.freeCount := by unfold makeStopReply; split <;> rfl
@[simp] theorem makeStopReply_pending (s : State) :
    (makeStopReply s).pending = s.pending := by unfold makeStopReply; split <;> rfl

/-! `replyPlaceFreed` changes at most: command. -/
@[simp] theorem replyPlaceFreed_time (s : State) :
    (replyPlaceFreed s).time = s.time := by unfold replyPlaceFreed; (repeat' split) <;> simp
@[simp] theorem replyPlaceFreed_grid (s : State) :
    (replyPlaceFreed s).grid = s.grid := by unfold replyPlaceFreed; (repeat' split) <;> simp
@[simp] theorem replyPlaceFreed_links (s : State) :
    (replyPlaceFreed s).links = s.links := by unfold replyPlaceFreed; (repeat' split) <;> simp
@[simp] theorem replyPlaceFreed_ingest (s : State) :
    (replyPlaceFreed s).ingest = s.ingest := by unfold replyPlaceFreed; (repeat' split) <;> simp
@[simp] theorem replyPlaceFreed_sources (s : State) :
    (replyPlaceFreed s).sources = s.sources := by unfold replyPlaceFreed; (repeat' split) <;> simp
@[simp] theorem replyPlaceFreed_window (s : State) :
    (replyPlaceFreed s).window = s.window := by unfold replyPlaceFreed; (repeat' split) <;> simp
@[simp] theorem replyPlaceFreed_assembler (s : State) :
    (replyPlaceFreed s).assembler = s.assembler := by unfold replyPlaceFreed; (repeat' split) <;> simp
@[simp] theorem replyPlaceFreed_views (s : State) :
    (replyPlaceFreed s).views = s.views := by unfold replyPlaceFreed; (repeat' split) <;> simp
@[simp] theorem replyPlaceFreed_release (s : State) :
    (replyPlaceFreed s).release = s.release := by unfold replyPlaceFreed; (repeat' split) <;> simp
@[simp] theorem replyPlaceFreed_reporting (s : State) :
    (replyPlaceFreed s).reporting = s.reporting := by unfold replyPlaceFreed; (repeat' split) <;> simp
@[simp] theorem replyPlaceFreed_pins (s : State) :
    (replyPlaceFreed s).pins = s.pins := by unfold replyPlaceFreed; (repeat' split) <;> simp
@[simp] theorem replyPlaceFreed_freeCount (s : State) :
    (replyPlaceFreed s).freeCount = s.freeCount := by unfold replyPlaceFreed; (repeat' split) <;> simp
@[simp] theorem replyPlaceFreed_pending (s : State) :
    (replyPlaceFreed s).pending = s.pending := by unfold replyPlaceFreed; (repeat' split) <;> simp

/-! `transmitChoice` changes at most: command, reporting, release. -/
@[simp] theorem transmitChoice_time (s : State) :
    (transmitChoice s).time = s.time := by unfold transmitChoice; (repeat' split) <;> simp
@[simp] theorem transmitChoice_grid (s : State) :
    (transmitChoice s).grid = s.grid := by unfold transmitChoice; (repeat' split) <;> simp
@[simp] theorem transmitChoice_links (s : State) :
    (transmitChoice s).links = s.links := by unfold transmitChoice; (repeat' split) <;> simp
@[simp] theorem transmitChoice_ingest (s : State) :
    (transmitChoice s).ingest = s.ingest := by unfold transmitChoice; (repeat' split) <;> simp
@[simp] theorem transmitChoice_sources (s : State) :
    (transmitChoice s).sources = s.sources := by unfold transmitChoice; (repeat' split) <;> simp
@[simp] theorem transmitChoice_window (s : State) :
    (transmitChoice s).window = s.window := by unfold transmitChoice; (repeat' split) <;> simp
@[simp] theorem transmitChoice_assembler (s : State) :
    (transmitChoice s).assembler = s.assembler := by unfold transmitChoice; (repeat' split) <;> simp
@[simp] theorem transmitChoice_views (s : State) :
    (transmitChoice s).views = s.views := by unfold transmitChoice; (repeat' split) <;> simp
@[simp] theorem transmitChoice_pins (s : State) :
    (transmitChoice s).pins = s.pins := by unfold transmitChoice; (repeat' split) <;> simp
@[simp] theorem transmitChoice_freeCount (s : State) :
    (transmitChoice s).freeCount = s.freeCount := by unfold transmitChoice; (repeat' split) <;> simp
@[simp] theorem transmitChoice_pending (s : State) :
    (transmitChoice s).pending = s.pending := by unfold transmitChoice; (repeat' split) <;> simp

/-! `appendReply` changes at most: command, reporting, release. -/
@[simp] theorem appendReply_time (r : Reply) (s : State) :
    (appendReply r s).time = s.time := by simp [appendReply]
@[simp] theorem appendReply_grid (r : Reply) (s : State) :
    (appendReply r s).grid = s.grid := by simp [appendReply]
@[simp] theorem appendReply_links (r : Reply) (s : State) :
    (appendReply r s).links = s.links := by simp [appendReply]
@[simp] theorem appendReply_ingest (r : Reply) (s : State) :
    (appendReply r s).ingest = s.ingest := by simp [appendReply]
@[simp] theorem appendReply_sources (r : Reply) (s : State) :
    (appendReply r s).sources = s.sources := by simp [appendReply]
@[simp] theorem appendReply_window (r : Reply) (s : State) :
    (appendReply r s).window = s.window := by simp [appendReply]
@[simp] theorem appendReply_assembler (r : Reply) (s : State) :
    (appendReply r s).assembler = s.assembler := by simp [appendReply]
@[simp] theorem appendReply_views (r : Reply) (s : State) :
    (appendReply r s).views = s.views := by simp [appendReply]
@[simp] theorem appendReply_pins (r : Reply) (s : State) :
    (appendReply r s).pins = s.pins := by simp [appendReply]
@[simp] theorem appendReply_freeCount (r : Reply) (s : State) :
    (appendReply r s).freeCount = s.freeCount := by simp [appendReply]
@[simp] theorem appendReply_pending (r : Reply) (s : State) :
    (appendReply r s).pending = s.pending := by simp [appendReply]

/-! `noticeLost` changes at most: reporting. -/
@[simp] theorem noticeLost_time (s : State) :
    (noticeLost s).time = s.time := rfl
@[simp] theorem noticeLost_grid (s : State) :
    (noticeLost s).grid = s.grid := rfl
@[simp] theorem noticeLost_links (s : State) :
    (noticeLost s).links = s.links := rfl
@[simp] theorem noticeLost_ingest (s : State) :
    (noticeLost s).ingest = s.ingest := rfl
@[simp] theorem noticeLost_sources (s : State) :
    (noticeLost s).sources = s.sources := rfl
@[simp] theorem noticeLost_window (s : State) :
    (noticeLost s).window = s.window := rfl
@[simp] theorem noticeLost_assembler (s : State) :
    (noticeLost s).assembler = s.assembler := rfl
@[simp] theorem noticeLost_views (s : State) :
    (noticeLost s).views = s.views := rfl
@[simp] theorem noticeLost_release (s : State) :
    (noticeLost s).release = s.release := rfl
@[simp] theorem noticeLost_command (s : State) :
    (noticeLost s).command = s.command := rfl
@[simp] theorem noticeLost_pins (s : State) :
    (noticeLost s).pins = s.pins := rfl
@[simp] theorem noticeLost_freeCount (s : State) :
    (noticeLost s).freeCount = s.freeCount := rfl
@[simp] theorem noticeLost_pending (s : State) :
    (noticeLost s).pending = s.pending := rfl

/-! `enterNotice` changes at most: reporting. -/
@[simp] theorem enterNotice_time (n : Notice) (s : State) :
    (enterNotice n s).time = s.time := by unfold enterNotice; (try dsimp only); (repeat' split) <;> simp
@[simp] theorem enterNotice_grid (n : Notice) (s : State) :
    (enterNotice n s).grid = s.grid := by unfold enterNotice; (try dsimp only); (repeat' split) <;> simp
@[simp] theorem enterNotice_links (n : Notice) (s : State) :
    (enterNotice n s).links = s.links := by unfold enterNotice; (try dsimp only); (repeat' split) <;> simp
@[simp] theorem enterNotice_ingest (n : Notice) (s : State) :
    (enterNotice n s).ingest = s.ingest := by unfold enterNotice; (try dsimp only); (repeat' split) <;> simp
@[simp] theorem enterNotice_sources (n : Notice) (s : State) :
    (enterNotice n s).sources = s.sources := by unfold enterNotice; (try dsimp only); (repeat' split) <;> simp
@[simp] theorem enterNotice_window (n : Notice) (s : State) :
    (enterNotice n s).window = s.window := by unfold enterNotice; (try dsimp only); (repeat' split) <;> simp
@[simp] theorem enterNotice_assembler (n : Notice) (s : State) :
    (enterNotice n s).assembler = s.assembler := by unfold enterNotice; (try dsimp only); (repeat' split) <;> simp
@[simp] theorem enterNotice_views (n : Notice) (s : State) :
    (enterNotice n s).views = s.views := by unfold enterNotice; (try dsimp only); (repeat' split) <;> simp
@[simp] theorem enterNotice_release (n : Notice) (s : State) :
    (enterNotice n s).release = s.release := by unfold enterNotice; (try dsimp only); (repeat' split) <;> simp
@[simp] theorem enterNotice_command (n : Notice) (s : State) :
    (enterNotice n s).command = s.command := by unfold enterNotice; (try dsimp only); (repeat' split) <;> simp
@[simp] theorem enterNotice_pins (n : Notice) (s : State) :
    (enterNotice n s).pins = s.pins := by unfold enterNotice; (try dsimp only); (repeat' split) <;> simp
@[simp] theorem enterNotice_freeCount (n : Notice) (s : State) :
    (enterNotice n s).freeCount = s.freeCount := by unfold enterNotice; (try dsimp only); (repeat' split) <;> simp
@[simp] theorem enterNotice_pending (n : Notice) (s : State) :
    (enterNotice n s).pending = s.pending := by unfold enterNotice; (try dsimp only); (repeat' split) <;> simp

/-! `afterNotice` changes at most: command, reporting, release. -/
@[simp] theorem afterNotice_time (s : State) :
    (afterNotice s).time = s.time := by unfold afterNotice; split <;> simp
@[simp] theorem afterNotice_grid (s : State) :
    (afterNotice s).grid = s.grid := by unfold afterNotice; split <;> simp
@[simp] theorem afterNotice_links (s : State) :
    (afterNotice s).links = s.links := by unfold afterNotice; split <;> simp
@[simp] theorem afterNotice_ingest (s : State) :
    (afterNotice s).ingest = s.ingest := by unfold afterNotice; split <;> simp
@[simp] theorem afterNotice_sources (s : State) :
    (afterNotice s).sources = s.sources := by unfold afterNotice; split <;> simp
@[simp] theorem afterNotice_window (s : State) :
    (afterNotice s).window = s.window := by unfold afterNotice; split <;> simp
@[simp] theorem afterNotice_assembler (s : State) :
    (afterNotice s).assembler = s.assembler := by unfold afterNotice; split <;> simp
@[simp] theorem afterNotice_views (s : State) :
    (afterNotice s).views = s.views := by unfold afterNotice; split <;> simp
@[simp] theorem afterNotice_pins (s : State) :
    (afterNotice s).pins = s.pins := by unfold afterNotice; split <;> simp
@[simp] theorem afterNotice_freeCount (s : State) :
    (afterNotice s).freeCount = s.freeCount := by unfold afterNotice; split <;> simp
@[simp] theorem afterNotice_pending (s : State) :
    (afterNotice s).pending = s.pending := by unfold afterNotice; split <;> simp

/-! `raiseNotice` changes at most: command, reporting, release. -/
@[simp] theorem raiseNotice_time (c : NoticeClass) (x : Subject) (d : Nat) (s : State) :
    (raiseNotice c x d s).time = s.time := by unfold raiseNotice; (try dsimp only); (repeat' split) <;> simp
@[simp] theorem raiseNotice_grid (c : NoticeClass) (x : Subject) (d : Nat) (s : State) :
    (raiseNotice c x d s).grid = s.grid := by unfold raiseNotice; (try dsimp only); (repeat' split) <;> simp
@[simp] theorem raiseNotice_links (c : NoticeClass) (x : Subject) (d : Nat) (s : State) :
    (raiseNotice c x d s).links = s.links := by unfold raiseNotice; (try dsimp only); (repeat' split) <;> simp
@[simp] theorem raiseNotice_ingest (c : NoticeClass) (x : Subject) (d : Nat) (s : State) :
    (raiseNotice c x d s).ingest = s.ingest := by unfold raiseNotice; (try dsimp only); (repeat' split) <;> simp
@[simp] theorem raiseNotice_sources (c : NoticeClass) (x : Subject) (d : Nat) (s : State) :
    (raiseNotice c x d s).sources = s.sources := by unfold raiseNotice; (try dsimp only); (repeat' split) <;> simp
@[simp] theorem raiseNotice_window (c : NoticeClass) (x : Subject) (d : Nat) (s : State) :
    (raiseNotice c x d s).window = s.window := by unfold raiseNotice; (try dsimp only); (repeat' split) <;> simp
@[simp] theorem raiseNotice_assembler (c : NoticeClass) (x : Subject) (d : Nat) (s : State) :
    (raiseNotice c x d s).assembler = s.assembler := by unfold raiseNotice; (try dsimp only); (repeat' split) <;> simp
@[simp] theorem raiseNotice_views (c : NoticeClass) (x : Subject) (d : Nat) (s : State) :
    (raiseNotice c x d s).views = s.views := by unfold raiseNotice; (try dsimp only); (repeat' split) <;> simp
@[simp] theorem raiseNotice_pins (c : NoticeClass) (x : Subject) (d : Nat) (s : State) :
    (raiseNotice c x d s).pins = s.pins := by unfold raiseNotice; (try dsimp only); (repeat' split) <;> simp
@[simp] theorem raiseNotice_freeCount (c : NoticeClass) (x : Subject) (d : Nat) (s : State) :
    (raiseNotice c x d s).freeCount = s.freeCount := by unfold raiseNotice; (try dsimp only); (repeat' split) <;> simp
@[simp] theorem raiseNotice_pending (c : NoticeClass) (x : Subject) (d : Nat) (s : State) :
    (raiseNotice c x d s).pending = s.pending := by unfold raiseNotice; (try dsimp only); (repeat' split) <;> simp

/-! `congestion` changes at most: command, reporting, release. -/
@[simp] theorem congestion_time (f : FaultFlag) (x : Subject) (s : State) :
    (congestion f x s).time = s.time := by unfold congestion; split <;> simp
@[simp] theorem congestion_grid (f : FaultFlag) (x : Subject) (s : State) :
    (congestion f x s).grid = s.grid := by unfold congestion; split <;> simp
@[simp] theorem congestion_links (f : FaultFlag) (x : Subject) (s : State) :
    (congestion f x s).links = s.links := by unfold congestion; split <;> simp
@[simp] theorem congestion_ingest (f : FaultFlag) (x : Subject) (s : State) :
    (congestion f x s).ingest = s.ingest := by unfold congestion; split <;> simp
@[simp] theorem congestion_sources (f : FaultFlag) (x : Subject) (s : State) :
    (congestion f x s).sources = s.sources := by unfold congestion; split <;> simp
@[simp] theorem congestion_window (f : FaultFlag) (x : Subject) (s : State) :
    (congestion f x s).window = s.window := by unfold congestion; split <;> simp
@[simp] theorem congestion_assembler (f : FaultFlag) (x : Subject) (s : State) :
    (congestion f x s).assembler = s.assembler := by unfold congestion; split <;> simp
@[simp] theorem congestion_views (f : FaultFlag) (x : Subject) (s : State) :
    (congestion f x s).views = s.views := by unfold congestion; split <;> simp
@[simp] theorem congestion_pins (f : FaultFlag) (x : Subject) (s : State) :
    (congestion f x s).pins = s.pins := by unfold congestion; split <;> simp
@[simp] theorem congestion_freeCount (f : FaultFlag) (x : Subject) (s : State) :
    (congestion f x s).freeCount = s.freeCount := by unfold congestion; split <;> simp
@[simp] theorem congestion_pending (f : FaultFlag) (x : Subject) (s : State) :
    (congestion f x s).pending = s.pending := by unfold congestion; split <;> simp

/-! `raiseTime` changes at most: command, reporting, release. -/
@[simp] theorem raiseTime_time (c : TimeCause) (s : State) :
    (raiseTime c s).time = s.time := by simp [raiseTime]
@[simp] theorem raiseTime_grid (c : TimeCause) (s : State) :
    (raiseTime c s).grid = s.grid := by simp [raiseTime]
@[simp] theorem raiseTime_links (c : TimeCause) (s : State) :
    (raiseTime c s).links = s.links := by simp [raiseTime]
@[simp] theorem raiseTime_ingest (c : TimeCause) (s : State) :
    (raiseTime c s).ingest = s.ingest := by simp [raiseTime]
@[simp] theorem raiseTime_sources (c : TimeCause) (s : State) :
    (raiseTime c s).sources = s.sources := by simp [raiseTime]
@[simp] theorem raiseTime_window (c : TimeCause) (s : State) :
    (raiseTime c s).window = s.window := by simp [raiseTime]
@[simp] theorem raiseTime_assembler (c : TimeCause) (s : State) :
    (raiseTime c s).assembler = s.assembler := by simp [raiseTime]
@[simp] theorem raiseTime_views (c : TimeCause) (s : State) :
    (raiseTime c s).views = s.views := by simp [raiseTime]
@[simp] theorem raiseTime_pins (c : TimeCause) (s : State) :
    (raiseTime c s).pins = s.pins := by simp [raiseTime]
@[simp] theorem raiseTime_freeCount (c : TimeCause) (s : State) :
    (raiseTime c s).freeCount = s.freeCount := by simp [raiseTime]
@[simp] theorem raiseTime_pending (c : TimeCause) (s : State) :
    (raiseTime c s).pending = s.pending := by simp [raiseTime]

/-! `raiseSource` changes at most: command, reporting, release. -/
@[simp] theorem raiseSource_time (i : Nat) (c : SourceCause) (s : State) :
    (raiseSource i c s).time = s.time := by simp [raiseSource]
@[simp] theorem raiseSource_grid (i : Nat) (c : SourceCause) (s : State) :
    (raiseSource i c s).grid = s.grid := by simp [raiseSource]
@[simp] theorem raiseSource_links (i : Nat) (c : SourceCause) (s : State) :
    (raiseSource i c s).links = s.links := by simp [raiseSource]
@[simp] theorem raiseSource_ingest (i : Nat) (c : SourceCause) (s : State) :
    (raiseSource i c s).ingest = s.ingest := by simp [raiseSource]
@[simp] theorem raiseSource_sources (i : Nat) (c : SourceCause) (s : State) :
    (raiseSource i c s).sources = s.sources := by simp [raiseSource]
@[simp] theorem raiseSource_window (i : Nat) (c : SourceCause) (s : State) :
    (raiseSource i c s).window = s.window := by simp [raiseSource]
@[simp] theorem raiseSource_assembler (i : Nat) (c : SourceCause) (s : State) :
    (raiseSource i c s).assembler = s.assembler := by simp [raiseSource]
@[simp] theorem raiseSource_views (i : Nat) (c : SourceCause) (s : State) :
    (raiseSource i c s).views = s.views := by simp [raiseSource]
@[simp] theorem raiseSource_pins (i : Nat) (c : SourceCause) (s : State) :
    (raiseSource i c s).pins = s.pins := by simp [raiseSource]
@[simp] theorem raiseSource_freeCount (i : Nat) (c : SourceCause) (s : State) :
    (raiseSource i c s).freeCount = s.freeCount := by simp [raiseSource]
@[simp] theorem raiseSource_pending (i : Nat) (c : SourceCause) (s : State) :
    (raiseSource i c s).pending = s.pending := by simp [raiseSource]

/-! `lookAtBusy` changes at most: release. -/
@[simp] theorem lookAtBusy_time (l : RelId) (s : State) :
    (lookAtBusy l s).time = s.time := by unfold lookAtBusy; (try dsimp only); (repeat' split) <;> simp
@[simp] theorem lookAtBusy_grid (l : RelId) (s : State) :
    (lookAtBusy l s).grid = s.grid := by unfold lookAtBusy; (try dsimp only); (repeat' split) <;> simp
@[simp] theorem lookAtBusy_links (l : RelId) (s : State) :
    (lookAtBusy l s).links = s.links := by unfold lookAtBusy; (try dsimp only); (repeat' split) <;> simp
@[simp] theorem lookAtBusy_ingest (l : RelId) (s : State) :
    (lookAtBusy l s).ingest = s.ingest := by unfold lookAtBusy; (try dsimp only); (repeat' split) <;> simp
@[simp] theorem lookAtBusy_sources (l : RelId) (s : State) :
    (lookAtBusy l s).sources = s.sources := by unfold lookAtBusy; (try dsimp only); (repeat' split) <;> simp
@[simp] theorem lookAtBusy_window (l : RelId) (s : State) :
    (lookAtBusy l s).window = s.window := by unfold lookAtBusy; (try dsimp only); (repeat' split) <;> simp
@[simp] theorem lookAtBusy_assembler (l : RelId) (s : State) :
    (lookAtBusy l s).assembler = s.assembler := by unfold lookAtBusy; (try dsimp only); (repeat' split) <;> simp
@[simp] theorem lookAtBusy_views (l : RelId) (s : State) :
    (lookAtBusy l s).views = s.views := by unfold lookAtBusy; (try dsimp only); (repeat' split) <;> simp
@[simp] theorem lookAtBusy_command (l : RelId) (s : State) :
    (lookAtBusy l s).command = s.command := by unfold lookAtBusy; (try dsimp only); (repeat' split) <;> simp
@[simp] theorem lookAtBusy_reporting (l : RelId) (s : State) :
    (lookAtBusy l s).reporting = s.reporting := by unfold lookAtBusy; (try dsimp only); (repeat' split) <;> simp
@[simp] theorem lookAtBusy_pins (l : RelId) (s : State) :
    (lookAtBusy l s).pins = s.pins := by unfold lookAtBusy; (try dsimp only); (repeat' split) <;> simp
@[simp] theorem lookAtBusy_freeCount (l : RelId) (s : State) :
    (lookAtBusy l s).freeCount = s.freeCount := by unfold lookAtBusy; (try dsimp only); (repeat' split) <;> simp
@[simp] theorem lookAtBusy_pending (l : RelId) (s : State) :
    (lookAtBusy l s).pending = s.pending := by unfold lookAtBusy; (try dsimp only); (repeat' split) <;> simp

/-! `afterAppend` changes at most: command, reporting, release. -/
@[simp] theorem afterAppend_time (d : Destination) (b : Bool) (s : State) :
    (afterAppend d b s).time = s.time := by unfold afterAppend; (repeat' split) <;> simp
@[simp] theorem afterAppend_grid (d : Destination) (b : Bool) (s : State) :
    (afterAppend d b s).grid = s.grid := by unfold afterAppend; (repeat' split) <;> simp
@[simp] theorem afterAppend_links (d : Destination) (b : Bool) (s : State) :
    (afterAppend d b s).links = s.links := by unfold afterAppend; (repeat' split) <;> simp
@[simp] theorem afterAppend_ingest (d : Destination) (b : Bool) (s : State) :
    (afterAppend d b s).ingest = s.ingest := by unfold afterAppend; (repeat' split) <;> simp
@[simp] theorem afterAppend_sources (d : Destination) (b : Bool) (s : State) :
    (afterAppend d b s).sources = s.sources := by unfold afterAppend; (repeat' split) <;> simp
@[simp] theorem afterAppend_window (d : Destination) (b : Bool) (s : State) :
    (afterAppend d b s).window = s.window := by unfold afterAppend; (repeat' split) <;> simp
@[simp] theorem afterAppend_assembler (d : Destination) (b : Bool) (s : State) :
    (afterAppend d b s).assembler = s.assembler := by unfold afterAppend; (repeat' split) <;> simp
@[simp] theorem afterAppend_views (d : Destination) (b : Bool) (s : State) :
    (afterAppend d b s).views = s.views := by unfold afterAppend; (repeat' split) <;> simp
@[simp] theorem afterAppend_pins (d : Destination) (b : Bool) (s : State) :
    (afterAppend d b s).pins = s.pins := by unfold afterAppend; (repeat' split) <;> simp
@[simp] theorem afterAppend_freeCount (d : Destination) (b : Bool) (s : State) :
    (afterAppend d b s).freeCount = s.freeCount := by unfold afterAppend; (repeat' split) <;> simp
@[simp] theorem afterAppend_pending (d : Destination) (b : Bool) (s : State) :
    (afterAppend d b s).pending = s.pending := by unfold afterAppend; (repeat' split) <;> simp

/-! `handOver` changes at most: command, reporting, release. -/
@[simp] theorem handOver_time (d : Destination) (o : OutSet) (s : State) :
    (handOver d o s).time = s.time := by unfold handOver; (try dsimp only); (repeat' split) <;> simp
@[simp] theorem handOver_grid (d : Destination) (o : OutSet) (s : State) :
    (handOver d o s).grid = s.grid := by unfold handOver; (try dsimp only); (repeat' split) <;> simp
@[simp] theorem handOver_links (d : Destination) (o : OutSet) (s : State) :
    (handOver d o s).links = s.links := by unfold handOver; (try dsimp only); (repeat' split) <;> simp
@[simp] theorem handOver_ingest (d : Destination) (o : OutSet) (s : State) :
    (handOver d o s).ingest = s.ingest := by unfold handOver; (try dsimp only); (repeat' split) <;> simp
@[simp] theorem handOver_sources (d : Destination) (o : OutSet) (s : State) :
    (handOver d o s).sources = s.sources := by unfold handOver; (try dsimp only); (repeat' split) <;> simp
@[simp] theorem handOver_window (d : Destination) (o : OutSet) (s : State) :
    (handOver d o s).window = s.window := by unfold handOver; (try dsimp only); (repeat' split) <;> simp
@[simp] theorem handOver_assembler (d : Destination) (o : OutSet) (s : State) :
    (handOver d o s).assembler = s.assembler := by unfold handOver; (try dsimp only); (repeat' split) <;> simp
@[simp] theorem handOver_views (d : Destination) (o : OutSet) (s : State) :
    (handOver d o s).views = s.views := by unfold handOver; (try dsimp only); (repeat' split) <;> simp
@[simp] theorem handOver_pins (d : Destination) (o : OutSet) (s : State) :
    (handOver d o s).pins = s.pins := by unfold handOver; (try dsimp only); (repeat' split) <;> simp
@[simp] theorem handOver_freeCount (d : Destination) (o : OutSet) (s : State) :
    (handOver d o s).freeCount = s.freeCount := by unfold handOver; (try dsimp only); (repeat' split) <;> simp
@[simp] theorem handOver_pending (d : Destination) (o : OutSet) (s : State) :
    (handOver d o s).pending = s.pending := by unfold handOver; (try dsimp only); (repeat' split) <;> simp

/-! `inhibitQueues` changes at most: command, reporting, release. -/
@[simp] theorem inhibitQueues_time (s : State) :
    (inhibitQueues s).time = s.time := by simp [inhibitQueues]
@[simp] theorem inhibitQueues_grid (s : State) :
    (inhibitQueues s).grid = s.grid := by simp [inhibitQueues]
@[simp] theorem inhibitQueues_links (s : State) :
    (inhibitQueues s).links = s.links := by simp [inhibitQueues]
@[simp] theorem inhibitQueues_ingest (s : State) :
    (inhibitQueues s).ingest = s.ingest := by simp [inhibitQueues]
@[simp] theorem inhibitQueues_sources (s : State) :
    (inhibitQueues s).sources = s.sources := by simp [inhibitQueues]
@[simp] theorem inhibitQueues_window (s : State) :
    (inhibitQueues s).window = s.window := by simp [inhibitQueues]
@[simp] theorem inhibitQueues_assembler (s : State) :
    (inhibitQueues s).assembler = s.assembler := by simp [inhibitQueues]
@[simp] theorem inhibitQueues_views (s : State) :
    (inhibitQueues s).views = s.views := by simp [inhibitQueues]
@[simp] theorem inhibitQueues_pins (s : State) :
    (inhibitQueues s).pins = s.pins := by simp [inhibitQueues]
@[simp] theorem inhibitQueues_freeCount (s : State) :
    (inhibitQueues s).freeCount = s.freeCount := by simp [inhibitQueues]
@[simp] theorem inhibitQueues_pending (s : State) :
    (inhibitQueues s).pending = s.pending := by simp [inhibitQueues]

/-! `flushQueues` changes at most: release. -/
@[simp] theorem flushQueues_time (s : State) :
    (flushQueues s).time = s.time := rfl
@[simp] theorem flushQueues_grid (s : State) :
    (flushQueues s).grid = s.grid := rfl
@[simp] theorem flushQueues_links (s : State) :
    (flushQueues s).links = s.links := rfl
@[simp] theorem flushQueues_ingest (s : State) :
    (flushQueues s).ingest = s.ingest := rfl
@[simp] theorem flushQueues_sources (s : State) :
    (flushQueues s).sources = s.sources := rfl
@[simp] theorem flushQueues_window (s : State) :
    (flushQueues s).window = s.window := rfl
@[simp] theorem flushQueues_assembler (s : State) :
    (flushQueues s).assembler = s.assembler := rfl
@[simp] theorem flushQueues_views (s : State) :
    (flushQueues s).views = s.views := rfl
@[simp] theorem flushQueues_command (s : State) :
    (flushQueues s).command = s.command := rfl
@[simp] theorem flushQueues_reporting (s : State) :
    (flushQueues s).reporting = s.reporting := rfl
@[simp] theorem flushQueues_pins (s : State) :
    (flushQueues s).pins = s.pins := rfl
@[simp] theorem flushQueues_freeCount (s : State) :
    (flushQueues s).freeCount = s.freeCount := rfl
@[simp] theorem flushQueues_pending (s : State) :
    (flushQueues s).pending = s.pending := rfl

/-! `disableLink` changes at most: release. -/
@[simp] theorem disableLink_time (l : RelId) (s : State) :
    (disableLink l s).time = s.time := by unfold disableLink; split <;> simp
@[simp] theorem disableLink_grid (l : RelId) (s : State) :
    (disableLink l s).grid = s.grid := by unfold disableLink; split <;> simp
@[simp] theorem disableLink_links (l : RelId) (s : State) :
    (disableLink l s).links = s.links := by unfold disableLink; split <;> simp
@[simp] theorem disableLink_ingest (l : RelId) (s : State) :
    (disableLink l s).ingest = s.ingest := by unfold disableLink; split <;> simp
@[simp] theorem disableLink_sources (l : RelId) (s : State) :
    (disableLink l s).sources = s.sources := by unfold disableLink; split <;> simp
@[simp] theorem disableLink_window (l : RelId) (s : State) :
    (disableLink l s).window = s.window := by unfold disableLink; split <;> simp
@[simp] theorem disableLink_assembler (l : RelId) (s : State) :
    (disableLink l s).assembler = s.assembler := by unfold disableLink; split <;> simp
@[simp] theorem disableLink_views (l : RelId) (s : State) :
    (disableLink l s).views = s.views := by unfold disableLink; split <;> simp
@[simp] theorem disableLink_command (l : RelId) (s : State) :
    (disableLink l s).command = s.command := by unfold disableLink; split <;> simp
@[simp] theorem disableLink_reporting (l : RelId) (s : State) :
    (disableLink l s).reporting = s.reporting := by unfold disableLink; split <;> simp
@[simp] theorem disableLink_pins (l : RelId) (s : State) :
    (disableLink l s).pins = s.pins := by unfold disableLink; split <;> simp
@[simp] theorem disableLink_freeCount (l : RelId) (s : State) :
    (disableLink l s).freeCount = s.freeCount := by unfold disableLink; split <;> simp
@[simp] theorem disableLink_pending (l : RelId) (s : State) :
    (disableLink l s).pending = s.pending := by unfold disableLink; split <;> simp

/-! `enableLink` changes at most: release. -/
@[simp] theorem enableLink_time (l : RelId) (s : State) :
    (enableLink l s).time = s.time := by simp [enableLink]
@[simp] theorem enableLink_grid (l : RelId) (s : State) :
    (enableLink l s).grid = s.grid := by simp [enableLink]
@[simp] theorem enableLink_links (l : RelId) (s : State) :
    (enableLink l s).links = s.links := by simp [enableLink]
@[simp] theorem enableLink_ingest (l : RelId) (s : State) :
    (enableLink l s).ingest = s.ingest := by simp [enableLink]
@[simp] theorem enableLink_sources (l : RelId) (s : State) :
    (enableLink l s).sources = s.sources := by simp [enableLink]
@[simp] theorem enableLink_window (l : RelId) (s : State) :
    (enableLink l s).window = s.window := by simp [enableLink]
@[simp] theorem enableLink_assembler (l : RelId) (s : State) :
    (enableLink l s).assembler = s.assembler := by simp [enableLink]
@[simp] theorem enableLink_views (l : RelId) (s : State) :
    (enableLink l s).views = s.views := by simp [enableLink]
@[simp] theorem enableLink_command (l : RelId) (s : State) :
    (enableLink l s).command = s.command := by simp [enableLink]
@[simp] theorem enableLink_reporting (l : RelId) (s : State) :
    (enableLink l s).reporting = s.reporting := by simp [enableLink]
@[simp] theorem enableLink_pins (l : RelId) (s : State) :
    (enableLink l s).pins = s.pins := by simp [enableLink]
@[simp] theorem enableLink_freeCount (l : RelId) (s : State) :
    (enableLink l s).freeCount = s.freeCount := by simp [enableLink]
@[simp] theorem enableLink_pending (l : RelId) (s : State) :
    (enableLink l s).pending = s.pending := by simp [enableLink]

end Sys2Proof.Machine
end

