-- ==== Sys2Proof/Laws/Window.lean ====
section
/-! SUPPORT. Frames of the Assembler and of the Release Controller. -/

namespace Sys2Proof.Machine

/-! `endEntry` changes at most: sources, assembler. -/
@[simp] theorem endEntry_time (i : Nat) (s : State) :
    (endEntry i s).time = s.time := by simp [endEntry]
@[simp] theorem endEntry_grid (i : Nat) (s : State) :
    (endEntry i s).grid = s.grid := by simp [endEntry]
@[simp] theorem endEntry_links (i : Nat) (s : State) :
    (endEntry i s).links = s.links := by simp [endEntry]
@[simp] theorem endEntry_ingest (i : Nat) (s : State) :
    (endEntry i s).ingest = s.ingest := by simp [endEntry]
@[simp] theorem endEntry_window (i : Nat) (s : State) :
    (endEntry i s).window = s.window := by simp [endEntry]
@[simp] theorem endEntry_views (i : Nat) (s : State) :
    (endEntry i s).views = s.views := by simp [endEntry]
@[simp] theorem endEntry_release (i : Nat) (s : State) :
    (endEntry i s).release = s.release := by simp [endEntry]
@[simp] theorem endEntry_command (i : Nat) (s : State) :
    (endEntry i s).command = s.command := by simp [endEntry]
@[simp] theorem endEntry_reporting (i : Nat) (s : State) :
    (endEntry i s).reporting = s.reporting := by simp [endEntry]
@[simp] theorem endEntry_pins (i : Nat) (s : State) :
    (endEntry i s).pins = s.pins := by simp [endEntry]
@[simp] theorem endEntry_freeCount (i : Nat) (s : State) :
    (endEntry i s).freeCount = s.freeCount := by simp [endEntry]
@[simp] theorem endEntry_pending (i : Nat) (s : State) :
    (endEntry i s).pending = s.pending := by simp [endEntry]

/-! `keepHold` changes at most: assembler. -/
@[simp] theorem keepHold_time (i : Nat) (e : Entry) (r : SampleRecord) (s : State) :
    (keepHold i e r s).time = s.time := by unfold keepHold; split <;> rfl
@[simp] theorem keepHold_grid (i : Nat) (e : Entry) (r : SampleRecord) (s : State) :
    (keepHold i e r s).grid = s.grid := by unfold keepHold; split <;> rfl
@[simp] theorem keepHold_links (i : Nat) (e : Entry) (r : SampleRecord) (s : State) :
    (keepHold i e r s).links = s.links := by unfold keepHold; split <;> rfl
@[simp] theorem keepHold_ingest (i : Nat) (e : Entry) (r : SampleRecord) (s : State) :
    (keepHold i e r s).ingest = s.ingest := by unfold keepHold; split <;> rfl
@[simp] theorem keepHold_sources (i : Nat) (e : Entry) (r : SampleRecord) (s : State) :
    (keepHold i e r s).sources = s.sources := by unfold keepHold; split <;> rfl
@[simp] theorem keepHold_window (i : Nat) (e : Entry) (r : SampleRecord) (s : State) :
    (keepHold i e r s).window = s.window := by unfold keepHold; split <;> rfl
@[simp] theorem keepHold_views (i : Nat) (e : Entry) (r : SampleRecord) (s : State) :
    (keepHold i e r s).views = s.views := by unfold keepHold; split <;> rfl
@[simp] theorem keepHold_release (i : Nat) (e : Entry) (r : SampleRecord) (s : State) :
    (keepHold i e r s).release = s.release := by unfold keepHold; split <;> rfl
@[simp] theorem keepHold_command (i : Nat) (e : Entry) (r : SampleRecord) (s : State) :
    (keepHold i e r s).command = s.command := by unfold keepHold; split <;> rfl
@[simp] theorem keepHold_reporting (i : Nat) (e : Entry) (r : SampleRecord) (s : State) :
    (keepHold i e r s).reporting = s.reporting := by unfold keepHold; split <;> rfl
@[simp] theorem keepHold_pins (i : Nat) (e : Entry) (r : SampleRecord) (s : State) :
    (keepHold i e r s).pins = s.pins := by unfold keepHold; split <;> rfl
@[simp] theorem keepHold_freeCount (i : Nat) (e : Entry) (r : SampleRecord) (s : State) :
    (keepHold i e r s).freeCount = s.freeCount := by unfold keepHold; split <;> rfl
@[simp] theorem keepHold_pending (i : Nat) (e : Entry) (r : SampleRecord) (s : State) :
    (keepHold i e r s).pending = s.pending := by unfold keepHold; split <;> rfl

/-! `visitEntry` changes at most: sources, assembler, command, reporting, release. -/
@[simp] theorem visitEntry_time (n : Nat) (c : Table SampleRecord) (acc : State × Bool) (s : State) (hs : acc.1 = s) (i : Nat) :
    ((visitEntry n c acc i).1).time = s.time := by
  subst hs; unfold visitEntry; (try dsimp only); (repeat' split) <;> simp
@[simp] theorem visitEntry_grid (n : Nat) (c : Table SampleRecord) (acc : State × Bool) (s : State) (hs : acc.1 = s) (i : Nat) :
    ((visitEntry n c acc i).1).grid = s.grid := by
  subst hs; unfold visitEntry; (try dsimp only); (repeat' split) <;> simp
@[simp] theorem visitEntry_links (n : Nat) (c : Table SampleRecord) (acc : State × Bool) (s : State) (hs : acc.1 = s) (i : Nat) :
    ((visitEntry n c acc i).1).links = s.links := by
  subst hs; unfold visitEntry; (try dsimp only); (repeat' split) <;> simp
@[simp] theorem visitEntry_ingest (n : Nat) (c : Table SampleRecord) (acc : State × Bool) (s : State) (hs : acc.1 = s) (i : Nat) :
    ((visitEntry n c acc i).1).ingest = s.ingest := by
  subst hs; unfold visitEntry; (try dsimp only); (repeat' split) <;> simp
@[simp] theorem visitEntry_window (n : Nat) (c : Table SampleRecord) (acc : State × Bool) (s : State) (hs : acc.1 = s) (i : Nat) :
    ((visitEntry n c acc i).1).window = s.window := by
  subst hs; unfold visitEntry; (try dsimp only); (repeat' split) <;> simp
@[simp] theorem visitEntry_views (n : Nat) (c : Table SampleRecord) (acc : State × Bool) (s : State) (hs : acc.1 = s) (i : Nat) :
    ((visitEntry n c acc i).1).views = s.views := by
  subst hs; unfold visitEntry; (try dsimp only); (repeat' split) <;> simp
@[simp] theorem visitEntry_pins (n : Nat) (c : Table SampleRecord) (acc : State × Bool) (s : State) (hs : acc.1 = s) (i : Nat) :
    ((visitEntry n c acc i).1).pins = s.pins := by
  subst hs; unfold visitEntry; (try dsimp only); (repeat' split) <;> simp
@[simp] theorem visitEntry_freeCount (n : Nat) (c : Table SampleRecord) (acc : State × Bool) (s : State) (hs : acc.1 = s) (i : Nat) :
    ((visitEntry n c acc i).1).freeCount = s.freeCount := by
  subst hs; unfold visitEntry; (try dsimp only); (repeat' split) <;> simp
@[simp] theorem visitEntry_pending (n : Nat) (c : Table SampleRecord) (acc : State × Bool) (s : State) (hs : acc.1 = s) (i : Nat) :
    ((visitEntry n c acc i).1).pending = s.pending := by
  subst hs; unfold visitEntry; (try dsimp only); (repeat' split) <;> simp

/-! `dispositionPass` changes at most: sources, assembler, command, reporting, release. -/
@[simp] theorem dispositionPass_time (n : Nat) (c : Table SampleRecord) (s : State) :
    ((dispositionPass n c s).1).time = s.time := by
  unfold dispositionPass
  exact foldl_keep (fun a : State × Bool => a.1.time) (fun a i => visitEntry_time n c a a.1 rfl i) _ _
@[simp] theorem dispositionPass_grid (n : Nat) (c : Table SampleRecord) (s : State) :
    ((dispositionPass n c s).1).grid = s.grid := by
  unfold dispositionPass
  exact foldl_keep (fun a : State × Bool => a.1.grid) (fun a i => visitEntry_grid n c a a.1 rfl i) _ _
@[simp] theorem dispositionPass_links (n : Nat) (c : Table SampleRecord) (s : State) :
    ((dispositionPass n c s).1).links = s.links := by
  unfold dispositionPass
  exact foldl_keep (fun a : State × Bool => a.1.links) (fun a i => visitEntry_links n c a a.1 rfl i) _ _
@[simp] theorem dispositionPass_ingest (n : Nat) (c : Table SampleRecord) (s : State) :
    ((dispositionPass n c s).1).ingest = s.ingest := by
  unfold dispositionPass
  exact foldl_keep (fun a : State × Bool => a.1.ingest) (fun a i => visitEntry_ingest n c a a.1 rfl i) _ _
@[simp] theorem dispositionPass_window (n : Nat) (c : Table SampleRecord) (s : State) :
    ((dispositionPass n c s).1).window = s.window := by
  unfold dispositionPass
  exact foldl_keep (fun a : State × Bool => a.1.window) (fun a i => visitEntry_window n c a a.1 rfl i) _ _
@[simp] theorem dispositionPass_views (n : Nat) (c : Table SampleRecord) (s : State) :
    ((dispositionPass n c s).1).views = s.views := by
  unfold dispositionPass
  exact foldl_keep (fun a : State × Bool => a.1.views) (fun a i => visitEntry_views n c a a.1 rfl i) _ _
@[simp] theorem dispositionPass_pins (n : Nat) (c : Table SampleRecord) (s : State) :
    ((dispositionPass n c s).1).pins = s.pins := by
  unfold dispositionPass
  exact foldl_keep (fun a : State × Bool => a.1.pins) (fun a i => visitEntry_pins n c a a.1 rfl i) _ _
@[simp] theorem dispositionPass_freeCount (n : Nat) (c : Table SampleRecord) (s : State) :
    ((dispositionPass n c s).1).freeCount = s.freeCount := by
  unfold dispositionPass
  exact foldl_keep (fun a : State × Bool => a.1.freeCount) (fun a i => visitEntry_freeCount n c a a.1 rfl i) _ _
@[simp] theorem dispositionPass_pending (n : Nat) (c : Table SampleRecord) (s : State) :
    ((dispositionPass n c s).1).pending = s.pending := by
  unfold dispositionPass
  exact foldl_keep (fun a : State × Bool => a.1.pending) (fun a i => visitEntry_pending n c a a.1 rfl i) _ _

/-! `switchView` changes at most: views, command, reporting, release. -/
@[simp] theorem switchView_time (second : Nat) (s : State) (v : ViewId) :
    (switchView second s v).time = s.time := by unfold switchView; (try dsimp only); (repeat' split) <;> simp
@[simp] theorem switchView_grid (second : Nat) (s : State) (v : ViewId) :
    (switchView second s v).grid = s.grid := by unfold switchView; (try dsimp only); (repeat' split) <;> simp
@[simp] theorem switchView_links (second : Nat) (s : State) (v : ViewId) :
    (switchView second s v).links = s.links := by unfold switchView; (try dsimp only); (repeat' split) <;> simp
@[simp] theorem switchView_ingest (second : Nat) (s : State) (v : ViewId) :
    (switchView second s v).ingest = s.ingest := by unfold switchView; (try dsimp only); (repeat' split) <;> simp
@[simp] theorem switchView_sources (second : Nat) (s : State) (v : ViewId) :
    (switchView second s v).sources = s.sources := by unfold switchView; (try dsimp only); (repeat' split) <;> simp
@[simp] theorem switchView_window (second : Nat) (s : State) (v : ViewId) :
    (switchView second s v).window = s.window := by unfold switchView; (try dsimp only); (repeat' split) <;> simp
@[simp] theorem switchView_assembler (second : Nat) (s : State) (v : ViewId) :
    (switchView second s v).assembler = s.assembler := by unfold switchView; (try dsimp only); (repeat' split) <;> simp
@[simp] theorem switchView_pins (second : Nat) (s : State) (v : ViewId) :
    (switchView second s v).pins = s.pins := by unfold switchView; (try dsimp only); (repeat' split) <;> simp
@[simp] theorem switchView_freeCount (second : Nat) (s : State) (v : ViewId) :
    (switchView second s v).freeCount = s.freeCount := by unfold switchView; (try dsimp only); (repeat' split) <;> simp
@[simp] theorem switchView_pending (second : Nat) (s : State) (v : ViewId) :
    (switchView second s v).pending = s.pending := by unfold switchView; (try dsimp only); (repeat' split) <;> simp

/-! `boundarySwitch` changes at most: views, command, reporting, release. -/
@[simp] theorem boundarySwitch_time (second : Nat) (s : State) :
    (boundarySwitch second s).time = s.time := by
  unfold boundarySwitch
  exact foldl_keep (fun a : State => a.time) (fun a i => switchView_time second a i) _ _
@[simp] theorem boundarySwitch_grid (second : Nat) (s : State) :
    (boundarySwitch second s).grid = s.grid := by
  unfold boundarySwitch
  exact foldl_keep (fun a : State => a.grid) (fun a i => switchView_grid second a i) _ _
@[simp] theorem boundarySwitch_links (second : Nat) (s : State) :
    (boundarySwitch second s).links = s.links := by
  unfold boundarySwitch
  exact foldl_keep (fun a : State => a.links) (fun a i => switchView_links second a i) _ _
@[simp] theorem boundarySwitch_ingest (second : Nat) (s : State) :
    (boundarySwitch second s).ingest = s.ingest := by
  unfold boundarySwitch
  exact foldl_keep (fun a : State => a.ingest) (fun a i => switchView_ingest second a i) _ _
@[simp] theorem boundarySwitch_sources (second : Nat) (s : State) :
    (boundarySwitch second s).sources = s.sources := by
  unfold boundarySwitch
  exact foldl_keep (fun a : State => a.sources) (fun a i => switchView_sources second a i) _ _
@[simp] theorem boundarySwitch_window (second : Nat) (s : State) :
    (boundarySwitch second s).window = s.window := by
  unfold boundarySwitch
  exact foldl_keep (fun a : State => a.window) (fun a i => switchView_window second a i) _ _
@[simp] theorem boundarySwitch_assembler (second : Nat) (s : State) :
    (boundarySwitch second s).assembler = s.assembler := by
  unfold boundarySwitch
  exact foldl_keep (fun a : State => a.assembler) (fun a i => switchView_assembler second a i) _ _
@[simp] theorem boundarySwitch_pins (second : Nat) (s : State) :
    (boundarySwitch second s).pins = s.pins := by
  unfold boundarySwitch
  exact foldl_keep (fun a : State => a.pins) (fun a i => switchView_pins second a i) _ _
@[simp] theorem boundarySwitch_freeCount (second : Nat) (s : State) :
    (boundarySwitch second s).freeCount = s.freeCount := by
  unfold boundarySwitch
  exact foldl_keep (fun a : State => a.freeCount) (fun a i => switchView_freeCount second a i) _ _
@[simp] theorem boundarySwitch_pending (second : Nat) (s : State) :
    (boundarySwitch second s).pending = s.pending := by
  unfold boundarySwitch
  exact foldl_keep (fun a : State => a.pending) (fun a i => switchView_pending second a i) _ _

/-! `considerViews` changes at most: views, assembler. -/
@[simp] theorem considerViews_time (n : Nat) (l : List ViewId) (s : State) :
    (considerViews n l s).time = s.time := by
  induction l generalizing s with
  | nil => rfl
  | cons v l ih => unfold considerViews; (try dsimp only); (repeat' split) <;> simp [ih]
@[simp] theorem considerViews_grid (n : Nat) (l : List ViewId) (s : State) :
    (considerViews n l s).grid = s.grid := by
  induction l generalizing s with
  | nil => rfl
  | cons v l ih => unfold considerViews; (try dsimp only); (repeat' split) <;> simp [ih]
@[simp] theorem considerViews_links (n : Nat) (l : List ViewId) (s : State) :
    (considerViews n l s).links = s.links := by
  induction l generalizing s with
  | nil => rfl
  | cons v l ih => unfold considerViews; (try dsimp only); (repeat' split) <;> simp [ih]
@[simp] theorem considerViews_ingest (n : Nat) (l : List ViewId) (s : State) :
    (considerViews n l s).ingest = s.ingest := by
  induction l generalizing s with
  | nil => rfl
  | cons v l ih => unfold considerViews; (try dsimp only); (repeat' split) <;> simp [ih]
@[simp] theorem considerViews_sources (n : Nat) (l : List ViewId) (s : State) :
    (considerViews n l s).sources = s.sources := by
  induction l generalizing s with
  | nil => rfl
  | cons v l ih => unfold considerViews; (try dsimp only); (repeat' split) <;> simp [ih]
@[simp] theorem considerViews_window (n : Nat) (l : List ViewId) (s : State) :
    (considerViews n l s).window = s.window := by
  induction l generalizing s with
  | nil => rfl
  | cons v l ih => unfold considerViews; (try dsimp only); (repeat' split) <;> simp [ih]
@[simp] theorem considerViews_release (n : Nat) (l : List ViewId) (s : State) :
    (considerViews n l s).release = s.release := by
  induction l generalizing s with
  | nil => rfl
  | cons v l ih => unfold considerViews; (try dsimp only); (repeat' split) <;> simp [ih]
@[simp] theorem considerViews_command (n : Nat) (l : List ViewId) (s : State) :
    (considerViews n l s).command = s.command := by
  induction l generalizing s with
  | nil => rfl
  | cons v l ih => unfold considerViews; (try dsimp only); (repeat' split) <;> simp [ih]
@[simp] theorem considerViews_reporting (n : Nat) (l : List ViewId) (s : State) :
    (considerViews n l s).reporting = s.reporting := by
  induction l generalizing s with
  | nil => rfl
  | cons v l ih => unfold considerViews; (try dsimp only); (repeat' split) <;> simp [ih]
@[simp] theorem considerViews_pins (n : Nat) (l : List ViewId) (s : State) :
    (considerViews n l s).pins = s.pins := by
  induction l generalizing s with
  | nil => rfl
  | cons v l ih => unfold considerViews; (try dsimp only); (repeat' split) <;> simp [ih]
@[simp] theorem considerViews_freeCount (n : Nat) (l : List ViewId) (s : State) :
    (considerViews n l s).freeCount = s.freeCount := by
  induction l generalizing s with
  | nil => rfl
  | cons v l ih => unfold considerViews; (try dsimp only); (repeat' split) <;> simp [ih]
@[simp] theorem considerViews_pending (n : Nat) (l : List ViewId) (s : State) :
    (considerViews n l s).pending = s.pending := by
  induction l generalizing s with
  | nil => rfl
  | cons v l ih => unfold considerViews; (try dsimp only); (repeat' split) <;> simp [ih]

/-! `takeHead` changes at most: views, assembler, window, sources, command, reporting, release. -/
@[simp] theorem takeHead_time (n : Nat) (r : List Nat) (s : State) :
    ((takeHead n r s).1).time = s.time := by
  unfold takeHead; (try dsimp only); (repeat' split) <;> simp
@[simp] theorem takeHead_grid (n : Nat) (r : List Nat) (s : State) :
    ((takeHead n r s).1).grid = s.grid := by
  unfold takeHead; (try dsimp only); (repeat' split) <;> simp
@[simp] theorem takeHead_links (n : Nat) (r : List Nat) (s : State) :
    ((takeHead n r s).1).links = s.links := by
  unfold takeHead; (try dsimp only); (repeat' split) <;> simp
@[simp] theorem takeHead_ingest (n : Nat) (r : List Nat) (s : State) :
    ((takeHead n r s).1).ingest = s.ingest := by
  unfold takeHead; (try dsimp only); (repeat' split) <;> simp
@[simp] theorem takeHead_pins (n : Nat) (r : List Nat) (s : State) :
    ((takeHead n r s).1).pins = s.pins := by
  unfold takeHead; (try dsimp only); (repeat' split) <;> simp
@[simp] theorem takeHead_freeCount (n : Nat) (r : List Nat) (s : State) :
    ((takeHead n r s).1).freeCount = s.freeCount := by
  unfold takeHead; (try dsimp only); (repeat' split) <;> simp
@[simp] theorem takeHead_pending (n : Nat) (r : List Nat) (s : State) :
    ((takeHead n r s).1).pending = s.pending := by
  unfold takeHead; (try dsimp only); (repeat' split) <;> simp

/-! `takeIfIdle` changes at most: views, assembler, window, sources, command, reporting, release. -/
@[simp] theorem takeIfIdle_time (s : State) :
    ((takeIfIdle s).1).time = s.time := by unfold takeIfIdle; split <;> simp
@[simp] theorem takeIfIdle_grid (s : State) :
    ((takeIfIdle s).1).grid = s.grid := by unfold takeIfIdle; split <;> simp
@[simp] theorem takeIfIdle_links (s : State) :
    ((takeIfIdle s).1).links = s.links := by unfold takeIfIdle; split <;> simp
@[simp] theorem takeIfIdle_ingest (s : State) :
    ((takeIfIdle s).1).ingest = s.ingest := by unfold takeIfIdle; split <;> simp
@[simp] theorem takeIfIdle_pins (s : State) :
    ((takeIfIdle s).1).pins = s.pins := by unfold takeIfIdle; split <;> simp
@[simp] theorem takeIfIdle_freeCount (s : State) :
    ((takeIfIdle s).1).freeCount = s.freeCount := by unfold takeIfIdle; split <;> simp
@[simp] theorem takeIfIdle_pending (s : State) :
    ((takeIfIdle s).1).pending = s.pending := by unfold takeIfIdle; split <;> simp

/-! `handOverSet` changes at most: views, assembler, command, reporting, release. -/
@[simp] theorem handOverSet_time (s : State) :
    (handOverSet s).time = s.time := by unfold handOverSet; (try dsimp only); (repeat' split) <;> simp
@[simp] theorem handOverSet_grid (s : State) :
    (handOverSet s).grid = s.grid := by unfold handOverSet; (try dsimp only); (repeat' split) <;> simp
@[simp] theorem handOverSet_links (s : State) :
    (handOverSet s).links = s.links := by unfold handOverSet; (try dsimp only); (repeat' split) <;> simp
@[simp] theorem handOverSet_ingest (s : State) :
    (handOverSet s).ingest = s.ingest := by unfold handOverSet; (try dsimp only); (repeat' split) <;> simp
@[simp] theorem handOverSet_sources (s : State) :
    (handOverSet s).sources = s.sources := by unfold handOverSet; (try dsimp only); (repeat' split) <;> simp
@[simp] theorem handOverSet_window (s : State) :
    (handOverSet s).window = s.window := by unfold handOverSet; (try dsimp only); (repeat' split) <;> simp
@[simp] theorem handOverSet_pins (s : State) :
    (handOverSet s).pins = s.pins := by unfold handOverSet; (try dsimp only); (repeat' split) <;> simp
@[simp] theorem handOverSet_freeCount (s : State) :
    (handOverSet s).freeCount = s.freeCount := by unfold handOverSet; (try dsimp only); (repeat' split) <;> simp
@[simp] theorem handOverSet_pending (s : State) :
    (handOverSet s).pending = s.pending := by unfold handOverSet; (try dsimp only); (repeat' split) <;> simp

/-! `endIfRetired` changes at most: sources, assembler. -/
@[simp] theorem endIfRetired_time (n : Nat) (s : State) (i : Nat) :
    (endIfRetired n s i).time = s.time := by unfold endIfRetired; (try dsimp only); (repeat' split) <;> simp
@[simp] theorem endIfRetired_grid (n : Nat) (s : State) (i : Nat) :
    (endIfRetired n s i).grid = s.grid := by unfold endIfRetired; (try dsimp only); (repeat' split) <;> simp
@[simp] theorem endIfRetired_links (n : Nat) (s : State) (i : Nat) :
    (endIfRetired n s i).links = s.links := by unfold endIfRetired; (try dsimp only); (repeat' split) <;> simp
@[simp] theorem endIfRetired_ingest (n : Nat) (s : State) (i : Nat) :
    (endIfRetired n s i).ingest = s.ingest := by unfold endIfRetired; (try dsimp only); (repeat' split) <;> simp
@[simp] theorem endIfRetired_window (n : Nat) (s : State) (i : Nat) :
    (endIfRetired n s i).window = s.window := by unfold endIfRetired; (try dsimp only); (repeat' split) <;> simp
@[simp] theorem endIfRetired_views (n : Nat) (s : State) (i : Nat) :
    (endIfRetired n s i).views = s.views := by unfold endIfRetired; (try dsimp only); (repeat' split) <;> simp
@[simp] theorem endIfRetired_release (n : Nat) (s : State) (i : Nat) :
    (endIfRetired n s i).release = s.release := by unfold endIfRetired; (try dsimp only); (repeat' split) <;> simp
@[simp] theorem endIfRetired_command (n : Nat) (s : State) (i : Nat) :
    (endIfRetired n s i).command = s.command := by unfold endIfRetired; (try dsimp only); (repeat' split) <;> simp
@[simp] theorem endIfRetired_reporting (n : Nat) (s : State) (i : Nat) :
    (endIfRetired n s i).reporting = s.reporting := by unfold endIfRetired; (try dsimp only); (repeat' split) <;> simp
@[simp] theorem endIfRetired_pins (n : Nat) (s : State) (i : Nat) :
    (endIfRetired n s i).pins = s.pins := by unfold endIfRetired; (try dsimp only); (repeat' split) <;> simp
@[simp] theorem endIfRetired_freeCount (n : Nat) (s : State) (i : Nat) :
    (endIfRetired n s i).freeCount = s.freeCount := by unfold endIfRetired; (try dsimp only); (repeat' split) <;> simp
@[simp] theorem endIfRetired_pending (n : Nat) (s : State) (i : Nat) :
    (endIfRetired n s i).pending = s.pending := by unfold endIfRetired; (try dsimp only); (repeat' split) <;> simp

/-! `releaseSlot` changes at most: sources, assembler, window. -/
@[simp] theorem releaseSlot_time (n : Nat) (s : State) :
    (releaseSlot n s).time = s.time := by
  unfold releaseSlot; dsimp only
  exact foldl_keep (fun a : State => a.time) (fun a i => endIfRetired_time n a i) _ _
@[simp] theorem releaseSlot_grid (n : Nat) (s : State) :
    (releaseSlot n s).grid = s.grid := by
  unfold releaseSlot; dsimp only
  exact foldl_keep (fun a : State => a.grid) (fun a i => endIfRetired_grid n a i) _ _
@[simp] theorem releaseSlot_links (n : Nat) (s : State) :
    (releaseSlot n s).links = s.links := by
  unfold releaseSlot; dsimp only
  exact foldl_keep (fun a : State => a.links) (fun a i => endIfRetired_links n a i) _ _
@[simp] theorem releaseSlot_ingest (n : Nat) (s : State) :
    (releaseSlot n s).ingest = s.ingest := by
  unfold releaseSlot; dsimp only
  exact foldl_keep (fun a : State => a.ingest) (fun a i => endIfRetired_ingest n a i) _ _
@[simp] theorem releaseSlot_views (n : Nat) (s : State) :
    (releaseSlot n s).views = s.views := by
  unfold releaseSlot; dsimp only
  exact foldl_keep (fun a : State => a.views) (fun a i => endIfRetired_views n a i) _ _
@[simp] theorem releaseSlot_release (n : Nat) (s : State) :
    (releaseSlot n s).release = s.release := by
  unfold releaseSlot; dsimp only
  exact foldl_keep (fun a : State => a.release) (fun a i => endIfRetired_release n a i) _ _
@[simp] theorem releaseSlot_command (n : Nat) (s : State) :
    (releaseSlot n s).command = s.command := by
  unfold releaseSlot; dsimp only
  exact foldl_keep (fun a : State => a.command) (fun a i => endIfRetired_command n a i) _ _
@[simp] theorem releaseSlot_reporting (n : Nat) (s : State) :
    (releaseSlot n s).reporting = s.reporting := by
  unfold releaseSlot; dsimp only
  exact foldl_keep (fun a : State => a.reporting) (fun a i => endIfRetired_reporting n a i) _ _
@[simp] theorem releaseSlot_pins (n : Nat) (s : State) :
    (releaseSlot n s).pins = s.pins := by
  unfold releaseSlot; dsimp only
  exact foldl_keep (fun a : State => a.pins) (fun a i => endIfRetired_pins n a i) _ _
@[simp] theorem releaseSlot_freeCount (n : Nat) (s : State) :
    (releaseSlot n s).freeCount = s.freeCount := by
  unfold releaseSlot; dsimp only
  exact foldl_keep (fun a : State => a.freeCount) (fun a i => endIfRetired_freeCount n a i) _ _
@[simp] theorem releaseSlot_pending (n : Nat) (s : State) :
    (releaseSlot n s).pending = s.pending := by
  unfold releaseSlot; dsimp only
  exact foldl_keep (fun a : State => a.pending) (fun a i => endIfRetired_pending n a i) _ _

/-! `openSlot` changes at most: window. -/
@[simp] theorem openSlot_time (n : Nat) (o : Opener) (s : State) :
    (openSlot n o s).time = s.time := rfl
@[simp] theorem openSlot_grid (n : Nat) (o : Opener) (s : State) :
    (openSlot n o s).grid = s.grid := rfl
@[simp] theorem openSlot_links (n : Nat) (o : Opener) (s : State) :
    (openSlot n o s).links = s.links := rfl
@[simp] theorem openSlot_ingest (n : Nat) (o : Opener) (s : State) :
    (openSlot n o s).ingest = s.ingest := rfl
@[simp] theorem openSlot_sources (n : Nat) (o : Opener) (s : State) :
    (openSlot n o s).sources = s.sources := rfl
@[simp] theorem openSlot_assembler (n : Nat) (o : Opener) (s : State) :
    (openSlot n o s).assembler = s.assembler := rfl
@[simp] theorem openSlot_views (n : Nat) (o : Opener) (s : State) :
    (openSlot n o s).views = s.views := rfl
@[simp] theorem openSlot_release (n : Nat) (o : Opener) (s : State) :
    (openSlot n o s).release = s.release := rfl
@[simp] theorem openSlot_command (n : Nat) (o : Opener) (s : State) :
    (openSlot n o s).command = s.command := rfl
@[simp] theorem openSlot_reporting (n : Nat) (o : Opener) (s : State) :
    (openSlot n o s).reporting = s.reporting := rfl
@[simp] theorem openSlot_pins (n : Nat) (o : Opener) (s : State) :
    (openSlot n o s).pins = s.pins := rfl
@[simp] theorem openSlot_freeCount (n : Nat) (o : Opener) (s : State) :
    (openSlot n o s).freeCount = s.freeCount := rfl
@[simp] theorem openSlot_pending (n : Nat) (o : Opener) (s : State) :
    (openSlot n o s).pending = s.pending := rfl

/-! `evaluateSlot` changes at most: window. -/
@[simp] theorem evaluateSlot_time (n : Nat) (s : State) :
    ((evaluateSlot n s).1).time = s.time := by unfold evaluateSlot; (repeat' split) <;> rfl
@[simp] theorem evaluateSlot_grid (n : Nat) (s : State) :
    ((evaluateSlot n s).1).grid = s.grid := by unfold evaluateSlot; (repeat' split) <;> rfl
@[simp] theorem evaluateSlot_links (n : Nat) (s : State) :
    ((evaluateSlot n s).1).links = s.links := by unfold evaluateSlot; (repeat' split) <;> rfl
@[simp] theorem evaluateSlot_ingest (n : Nat) (s : State) :
    ((evaluateSlot n s).1).ingest = s.ingest := by unfold evaluateSlot; (repeat' split) <;> rfl
@[simp] theorem evaluateSlot_sources (n : Nat) (s : State) :
    ((evaluateSlot n s).1).sources = s.sources := by unfold evaluateSlot; (repeat' split) <;> rfl
@[simp] theorem evaluateSlot_assembler (n : Nat) (s : State) :
    ((evaluateSlot n s).1).assembler = s.assembler := by unfold evaluateSlot; (repeat' split) <;> rfl
@[simp] theorem evaluateSlot_views (n : Nat) (s : State) :
    ((evaluateSlot n s).1).views = s.views := by unfold evaluateSlot; (repeat' split) <;> rfl
@[simp] theorem evaluateSlot_release (n : Nat) (s : State) :
    ((evaluateSlot n s).1).release = s.release := by unfold evaluateSlot; (repeat' split) <;> rfl
@[simp] theorem evaluateSlot_command (n : Nat) (s : State) :
    ((evaluateSlot n s).1).command = s.command := by unfold evaluateSlot; (repeat' split) <;> rfl
@[simp] theorem evaluateSlot_reporting (n : Nat) (s : State) :
    ((evaluateSlot n s).1).reporting = s.reporting := by unfold evaluateSlot; (repeat' split) <;> rfl
@[simp] theorem evaluateSlot_pins (n : Nat) (s : State) :
    ((evaluateSlot n s).1).pins = s.pins := by unfold evaluateSlot; (repeat' split) <;> rfl
@[simp] theorem evaluateSlot_freeCount (n : Nat) (s : State) :
    ((evaluateSlot n s).1).freeCount = s.freeCount := by unfold evaluateSlot; (repeat' split) <;> rfl
@[simp] theorem evaluateSlot_pending (n : Nat) (s : State) :
    ((evaluateSlot n s).1).pending = s.pending := by unfold evaluateSlot; (repeat' split) <;> rfl

/-! `evaluateAll` changes at most: window. -/
@[simp] theorem evaluateAll_time (s : State) :
    ((evaluateAll s).1).time = s.time := rfl
@[simp] theorem evaluateAll_grid (s : State) :
    ((evaluateAll s).1).grid = s.grid := rfl
@[simp] theorem evaluateAll_links (s : State) :
    ((evaluateAll s).1).links = s.links := rfl
@[simp] theorem evaluateAll_ingest (s : State) :
    ((evaluateAll s).1).ingest = s.ingest := rfl
@[simp] theorem evaluateAll_sources (s : State) :
    ((evaluateAll s).1).sources = s.sources := rfl
@[simp] theorem evaluateAll_assembler (s : State) :
    ((evaluateAll s).1).assembler = s.assembler := rfl
@[simp] theorem evaluateAll_views (s : State) :
    ((evaluateAll s).1).views = s.views := rfl
@[simp] theorem evaluateAll_release (s : State) :
    ((evaluateAll s).1).release = s.release := rfl
@[simp] theorem evaluateAll_command (s : State) :
    ((evaluateAll s).1).command = s.command := rfl
@[simp] theorem evaluateAll_reporting (s : State) :
    ((evaluateAll s).1).reporting = s.reporting := rfl
@[simp] theorem evaluateAll_pins (s : State) :
    ((evaluateAll s).1).pins = s.pins := rfl
@[simp] theorem evaluateAll_freeCount (s : State) :
    ((evaluateAll s).1).freeCount = s.freeCount := rfl
@[simp] theorem evaluateAll_pending (s : State) :
    ((evaluateAll s).1).pending = s.pending := rfl

/-! `closeSlot` changes at most: window. -/
@[simp] theorem closeSlot_time (n : Nat) (r : CloseReason) (s : State) :
    (closeSlot n r s).time = s.time := by unfold closeSlot; (repeat' split) <;> rfl
@[simp] theorem closeSlot_grid (n : Nat) (r : CloseReason) (s : State) :
    (closeSlot n r s).grid = s.grid := by unfold closeSlot; (repeat' split) <;> rfl
@[simp] theorem closeSlot_links (n : Nat) (r : CloseReason) (s : State) :
    (closeSlot n r s).links = s.links := by unfold closeSlot; (repeat' split) <;> rfl
@[simp] theorem closeSlot_ingest (n : Nat) (r : CloseReason) (s : State) :
    (closeSlot n r s).ingest = s.ingest := by unfold closeSlot; (repeat' split) <;> rfl
@[simp] theorem closeSlot_sources (n : Nat) (r : CloseReason) (s : State) :
    (closeSlot n r s).sources = s.sources := by unfold closeSlot; (repeat' split) <;> rfl
@[simp] theorem closeSlot_assembler (n : Nat) (r : CloseReason) (s : State) :
    (closeSlot n r s).assembler = s.assembler := by unfold closeSlot; (repeat' split) <;> rfl
@[simp] theorem closeSlot_views (n : Nat) (r : CloseReason) (s : State) :
    (closeSlot n r s).views = s.views := by unfold closeSlot; (repeat' split) <;> rfl
@[simp] theorem closeSlot_release (n : Nat) (r : CloseReason) (s : State) :
    (closeSlot n r s).release = s.release := by unfold closeSlot; (repeat' split) <;> rfl
@[simp] theorem closeSlot_command (n : Nat) (r : CloseReason) (s : State) :
    (closeSlot n r s).command = s.command := by unfold closeSlot; (repeat' split) <;> rfl
@[simp] theorem closeSlot_reporting (n : Nat) (r : CloseReason) (s : State) :
    (closeSlot n r s).reporting = s.reporting := by unfold closeSlot; (repeat' split) <;> rfl
@[simp] theorem closeSlot_pins (n : Nat) (r : CloseReason) (s : State) :
    (closeSlot n r s).pins = s.pins := by unfold closeSlot; (repeat' split) <;> rfl
@[simp] theorem closeSlot_freeCount (n : Nat) (r : CloseReason) (s : State) :
    (closeSlot n r s).freeCount = s.freeCount := by unfold closeSlot; (repeat' split) <;> rfl
@[simp] theorem closeSlot_pending (n : Nat) (r : CloseReason) (s : State) :
    (closeSlot n r s).pending = s.pending := by unfold closeSlot; (repeat' split) <;> rfl

/-! `closeAll` changes at most: window. -/
@[simp] theorem closeAll_time (l : List (Nat × CloseReason)) (s : State) :
    (closeAll l s).time = s.time := by
  induction l generalizing s with
  | nil => rfl
  | cons p l ih => simp [closeAll, ih]
@[simp] theorem closeAll_grid (l : List (Nat × CloseReason)) (s : State) :
    (closeAll l s).grid = s.grid := by
  induction l generalizing s with
  | nil => rfl
  | cons p l ih => simp [closeAll, ih]
@[simp] theorem closeAll_links (l : List (Nat × CloseReason)) (s : State) :
    (closeAll l s).links = s.links := by
  induction l generalizing s with
  | nil => rfl
  | cons p l ih => simp [closeAll, ih]
@[simp] theorem closeAll_ingest (l : List (Nat × CloseReason)) (s : State) :
    (closeAll l s).ingest = s.ingest := by
  induction l generalizing s with
  | nil => rfl
  | cons p l ih => simp [closeAll, ih]
@[simp] theorem closeAll_sources (l : List (Nat × CloseReason)) (s : State) :
    (closeAll l s).sources = s.sources := by
  induction l generalizing s with
  | nil => rfl
  | cons p l ih => simp [closeAll, ih]
@[simp] theorem closeAll_assembler (l : List (Nat × CloseReason)) (s : State) :
    (closeAll l s).assembler = s.assembler := by
  induction l generalizing s with
  | nil => rfl
  | cons p l ih => simp [closeAll, ih]
@[simp] theorem closeAll_views (l : List (Nat × CloseReason)) (s : State) :
    (closeAll l s).views = s.views := by
  induction l generalizing s with
  | nil => rfl
  | cons p l ih => simp [closeAll, ih]
@[simp] theorem closeAll_release (l : List (Nat × CloseReason)) (s : State) :
    (closeAll l s).release = s.release := by
  induction l generalizing s with
  | nil => rfl
  | cons p l ih => simp [closeAll, ih]
@[simp] theorem closeAll_command (l : List (Nat × CloseReason)) (s : State) :
    (closeAll l s).command = s.command := by
  induction l generalizing s with
  | nil => rfl
  | cons p l ih => simp [closeAll, ih]
@[simp] theorem closeAll_reporting (l : List (Nat × CloseReason)) (s : State) :
    (closeAll l s).reporting = s.reporting := by
  induction l generalizing s with
  | nil => rfl
  | cons p l ih => simp [closeAll, ih]
@[simp] theorem closeAll_pins (l : List (Nat × CloseReason)) (s : State) :
    (closeAll l s).pins = s.pins := by
  induction l generalizing s with
  | nil => rfl
  | cons p l ih => simp [closeAll, ih]
@[simp] theorem closeAll_freeCount (l : List (Nat × CloseReason)) (s : State) :
    (closeAll l s).freeCount = s.freeCount := by
  induction l generalizing s with
  | nil => rfl
  | cons p l ih => simp [closeAll, ih]
@[simp] theorem closeAll_pending (l : List (Nat × CloseReason)) (s : State) :
    (closeAll l s).pending = s.pending := by
  induction l generalizing s with
  | nil => rfl
  | cons p l ih => simp [closeAll, ih]

/-! `completionWalk` changes at most: window. -/
@[simp] theorem completionWalk_time (s : State) :
    (completionWalk s).time = s.time := by unfold completionWalk; (repeat' split) <;> simp
@[simp] theorem completionWalk_grid (s : State) :
    (completionWalk s).grid = s.grid := by unfold completionWalk; (repeat' split) <;> simp
@[simp] theorem completionWalk_links (s : State) :
    (completionWalk s).links = s.links := by unfold completionWalk; (repeat' split) <;> simp
@[simp] theorem completionWalk_ingest (s : State) :
    (completionWalk s).ingest = s.ingest := by unfold completionWalk; (repeat' split) <;> simp
@[simp] theorem completionWalk_sources (s : State) :
    (completionWalk s).sources = s.sources := by unfold completionWalk; (repeat' split) <;> simp
@[simp] theorem completionWalk_assembler (s : State) :
    (completionWalk s).assembler = s.assembler := by unfold completionWalk; (repeat' split) <;> simp
@[simp] theorem completionWalk_views (s : State) :
    (completionWalk s).views = s.views := by unfold completionWalk; (repeat' split) <;> simp
@[simp] theorem completionWalk_release (s : State) :
    (completionWalk s).release = s.release := by unfold completionWalk; (repeat' split) <;> simp
@[simp] theorem completionWalk_command (s : State) :
    (completionWalk s).command = s.command := by unfold completionWalk; (repeat' split) <;> simp
@[simp] theorem completionWalk_reporting (s : State) :
    (completionWalk s).reporting = s.reporting := by unfold completionWalk; (repeat' split) <;> simp
@[simp] theorem completionWalk_pins (s : State) :
    (completionWalk s).pins = s.pins := by unfold completionWalk; (repeat' split) <;> simp
@[simp] theorem completionWalk_freeCount (s : State) :
    (completionWalk s).freeCount = s.freeCount := by unfold completionWalk; (repeat' split) <;> simp
@[simp] theorem completionWalk_pending (s : State) :
    (completionWalk s).pending = s.pending := by unfold completionWalk; (repeat' split) <;> simp

/-! `reevaluateAfterTake` changes at most: window. -/
@[simp] theorem reevaluateAfterTake_time (s : State) :
    (reevaluateAfterTake s).time = s.time := by unfold reevaluateAfterTake; (try dsimp only); (repeat' split) <;> simp
@[simp] theorem reevaluateAfterTake_grid (s : State) :
    (reevaluateAfterTake s).grid = s.grid := by unfold reevaluateAfterTake; (try dsimp only); (repeat' split) <;> simp
@[simp] theorem reevaluateAfterTake_links (s : State) :
    (reevaluateAfterTake s).links = s.links := by unfold reevaluateAfterTake; (try dsimp only); (repeat' split) <;> simp
@[simp] theorem reevaluateAfterTake_ingest (s : State) :
    (reevaluateAfterTake s).ingest = s.ingest := by unfold reevaluateAfterTake; (try dsimp only); (repeat' split) <;> simp
@[simp] theorem reevaluateAfterTake_sources (s : State) :
    (reevaluateAfterTake s).sources = s.sources := by unfold reevaluateAfterTake; (try dsimp only); (repeat' split) <;> simp
@[simp] theorem reevaluateAfterTake_assembler (s : State) :
    (reevaluateAfterTake s).assembler = s.assembler := by unfold reevaluateAfterTake; (try dsimp only); (repeat' split) <;> simp
@[simp] theorem reevaluateAfterTake_views (s : State) :
    (reevaluateAfterTake s).views = s.views := by unfold reevaluateAfterTake; (try dsimp only); (repeat' split) <;> simp
@[simp] theorem reevaluateAfterTake_release (s : State) :
    (reevaluateAfterTake s).release = s.release := by unfold reevaluateAfterTake; (try dsimp only); (repeat' split) <;> simp
@[simp] theorem reevaluateAfterTake_command (s : State) :
    (reevaluateAfterTake s).command = s.command := by unfold reevaluateAfterTake; (try dsimp only); (repeat' split) <;> simp
@[simp] theorem reevaluateAfterTake_reporting (s : State) :
    (reevaluateAfterTake s).reporting = s.reporting := by unfold reevaluateAfterTake; (try dsimp only); (repeat' split) <;> simp
@[simp] theorem reevaluateAfterTake_pins (s : State) :
    (reevaluateAfterTake s).pins = s.pins := by unfold reevaluateAfterTake; (try dsimp only); (repeat' split) <;> simp
@[simp] theorem reevaluateAfterTake_freeCount (s : State) :
    (reevaluateAfterTake s).freeCount = s.freeCount := by unfold reevaluateAfterTake; (try dsimp only); (repeat' split) <;> simp
@[simp] theorem reevaluateAfterTake_pending (s : State) :
    (reevaluateAfterTake s).pending = s.pending := by unfold reevaluateAfterTake; (try dsimp only); (repeat' split) <;> simp

/-! `takeAndReevaluate` changes at most: views, assembler, window, sources, command, reporting, release. -/
@[simp] theorem takeAndReevaluate_time (s : State) :
    (takeAndReevaluate s).time = s.time := by unfold takeAndReevaluate; (try dsimp only); (repeat' split) <;> simp
@[simp] theorem takeAndReevaluate_grid (s : State) :
    (takeAndReevaluate s).grid = s.grid := by unfold takeAndReevaluate; (try dsimp only); (repeat' split) <;> simp
@[simp] theorem takeAndReevaluate_links (s : State) :
    (takeAndReevaluate s).links = s.links := by unfold takeAndReevaluate; (try dsimp only); (repeat' split) <;> simp
@[simp] theorem takeAndReevaluate_ingest (s : State) :
    (takeAndReevaluate s).ingest = s.ingest := by unfold takeAndReevaluate; (try dsimp only); (repeat' split) <;> simp
@[simp] theorem takeAndReevaluate_pins (s : State) :
    (takeAndReevaluate s).pins = s.pins := by unfold takeAndReevaluate; (try dsimp only); (repeat' split) <;> simp
@[simp] theorem takeAndReevaluate_freeCount (s : State) :
    (takeAndReevaluate s).freeCount = s.freeCount := by unfold takeAndReevaluate; (try dsimp only); (repeat' split) <;> simp
@[simp] theorem takeAndReevaluate_pending (s : State) :
    (takeAndReevaluate s).pending = s.pending := by unfold takeAndReevaluate; (try dsimp only); (repeat' split) <;> simp

/-! `settle` changes at most: views, assembler, window, sources, command, reporting, release. -/
@[simp] theorem settle_time (s : State) :
    (settle s).time = s.time := by simp [settle]
@[simp] theorem settle_grid (s : State) :
    (settle s).grid = s.grid := by simp [settle]
@[simp] theorem settle_links (s : State) :
    (settle s).links = s.links := by simp [settle]
@[simp] theorem settle_ingest (s : State) :
    (settle s).ingest = s.ingest := by simp [settle]
@[simp] theorem settle_pins (s : State) :
    (settle s).pins = s.pins := by simp [settle]
@[simp] theorem settle_freeCount (s : State) :
    (settle s).freeCount = s.freeCount := by simp [settle]
@[simp] theorem settle_pending (s : State) :
    (settle s).pending = s.pending := by simp [settle]

/-! `reevaluate` changes at most: views, assembler, window, sources, command, reporting, release. -/
@[simp] theorem reevaluate_time (s : State) :
    (reevaluate s).time = s.time := by unfold reevaluate; (try dsimp only); (repeat' split) <;> simp
@[simp] theorem reevaluate_grid (s : State) :
    (reevaluate s).grid = s.grid := by unfold reevaluate; (try dsimp only); (repeat' split) <;> simp
@[simp] theorem reevaluate_links (s : State) :
    (reevaluate s).links = s.links := by unfold reevaluate; (try dsimp only); (repeat' split) <;> simp
@[simp] theorem reevaluate_ingest (s : State) :
    (reevaluate s).ingest = s.ingest := by unfold reevaluate; (try dsimp only); (repeat' split) <;> simp
@[simp] theorem reevaluate_pins (s : State) :
    (reevaluate s).pins = s.pins := by unfold reevaluate; (try dsimp only); (repeat' split) <;> simp
@[simp] theorem reevaluate_freeCount (s : State) :
    (reevaluate s).freeCount = s.freeCount := by unfold reevaluate; (try dsimp only); (repeat' split) <;> simp
@[simp] theorem reevaluate_pending (s : State) :
    (reevaluate s).pending = s.pending := by unfold reevaluate; (try dsimp only); (repeat' split) <;> simp

/-! `evaluatePlaced` changes at most: views, assembler, window, sources, command, reporting, release. -/
@[simp] theorem evaluatePlaced_time (n : Nat) (s : State) :
    (evaluatePlaced n s).time = s.time := by unfold evaluatePlaced; (try dsimp only); (repeat' split) <;> simp
@[simp] theorem evaluatePlaced_grid (n : Nat) (s : State) :
    (evaluatePlaced n s).grid = s.grid := by unfold evaluatePlaced; (try dsimp only); (repeat' split) <;> simp
@[simp] theorem evaluatePlaced_links (n : Nat) (s : State) :
    (evaluatePlaced n s).links = s.links := by unfold evaluatePlaced; (try dsimp only); (repeat' split) <;> simp
@[simp] theorem evaluatePlaced_ingest (n : Nat) (s : State) :
    (evaluatePlaced n s).ingest = s.ingest := by unfold evaluatePlaced; (try dsimp only); (repeat' split) <;> simp
@[simp] theorem evaluatePlaced_pins (n : Nat) (s : State) :
    (evaluatePlaced n s).pins = s.pins := by unfold evaluatePlaced; (try dsimp only); (repeat' split) <;> simp
@[simp] theorem evaluatePlaced_freeCount (n : Nat) (s : State) :
    (evaluatePlaced n s).freeCount = s.freeCount := by unfold evaluatePlaced; (try dsimp only); (repeat' split) <;> simp
@[simp] theorem evaluatePlaced_pending (n : Nat) (s : State) :
    (evaluatePlaced n s).pending = s.pending := by unfold evaluatePlaced; (try dsimp only); (repeat' split) <;> simp

/-! `pressureCloses` changes at most: views, assembler, window, sources, command, reporting, release. -/
@[simp] theorem pressureCloses_time (k : Nat) (s : State) :
    (pressureCloses k s).time = s.time := by
  induction k generalizing s with
  | zero => rfl
  | succ k ih => unfold pressureCloses; (repeat' split) <;> simp [ih]
@[simp] theorem pressureCloses_grid (k : Nat) (s : State) :
    (pressureCloses k s).grid = s.grid := by
  induction k generalizing s with
  | zero => rfl
  | succ k ih => unfold pressureCloses; (repeat' split) <;> simp [ih]
@[simp] theorem pressureCloses_links (k : Nat) (s : State) :
    (pressureCloses k s).links = s.links := by
  induction k generalizing s with
  | zero => rfl
  | succ k ih => unfold pressureCloses; (repeat' split) <;> simp [ih]
@[simp] theorem pressureCloses_ingest (k : Nat) (s : State) :
    (pressureCloses k s).ingest = s.ingest := by
  induction k generalizing s with
  | zero => rfl
  | succ k ih => unfold pressureCloses; (repeat' split) <;> simp [ih]
@[simp] theorem pressureCloses_pins (k : Nat) (s : State) :
    (pressureCloses k s).pins = s.pins := by
  induction k generalizing s with
  | zero => rfl
  | succ k ih => unfold pressureCloses; (repeat' split) <;> simp [ih]
@[simp] theorem pressureCloses_freeCount (k : Nat) (s : State) :
    (pressureCloses k s).freeCount = s.freeCount := by
  induction k generalizing s with
  | zero => rfl
  | succ k ih => unfold pressureCloses; (repeat' split) <;> simp [ih]
@[simp] theorem pressureCloses_pending (k : Nat) (s : State) :
    (pressureCloses k s).pending = s.pending := by
  induction k generalizing s with
  | zero => rfl
  | succ k ih => unfold pressureCloses; (repeat' split) <;> simp [ih]

/-! `evaluatePressure` changes at most: views, assembler, window, sources, command, reporting, release. -/
@[simp] theorem evaluatePressure_time (s : State) :
    (evaluatePressure s).time = s.time := by simp [evaluatePressure]
@[simp] theorem evaluatePressure_grid (s : State) :
    (evaluatePressure s).grid = s.grid := by simp [evaluatePressure]
@[simp] theorem evaluatePressure_links (s : State) :
    (evaluatePressure s).links = s.links := by simp [evaluatePressure]
@[simp] theorem evaluatePressure_ingest (s : State) :
    (evaluatePressure s).ingest = s.ingest := by simp [evaluatePressure]
@[simp] theorem evaluatePressure_pins (s : State) :
    (evaluatePressure s).pins = s.pins := by simp [evaluatePressure]
@[simp] theorem evaluatePressure_freeCount (s : State) :
    (evaluatePressure s).freeCount = s.freeCount := by simp [evaluatePressure]
@[simp] theorem evaluatePressure_pending (s : State) :
    (evaluatePressure s).pending = s.pending := by simp [evaluatePressure]

/-! `drainEnd` changes at most: command, reporting, release. -/
@[simp] theorem drainEnd_time (s : State) :
    (drainEnd s).time = s.time := by unfold drainEnd; (try dsimp only); (repeat' split) <;> simp
@[simp] theorem drainEnd_grid (s : State) :
    (drainEnd s).grid = s.grid := by unfold drainEnd; (try dsimp only); (repeat' split) <;> simp
@[simp] theorem drainEnd_links (s : State) :
    (drainEnd s).links = s.links := by unfold drainEnd; (try dsimp only); (repeat' split) <;> simp
@[simp] theorem drainEnd_ingest (s : State) :
    (drainEnd s).ingest = s.ingest := by unfold drainEnd; (try dsimp only); (repeat' split) <;> simp
@[simp] theorem drainEnd_sources (s : State) :
    (drainEnd s).sources = s.sources := by unfold drainEnd; (try dsimp only); (repeat' split) <;> simp
@[simp] theorem drainEnd_window (s : State) :
    (drainEnd s).window = s.window := by unfold drainEnd; (try dsimp only); (repeat' split) <;> simp
@[simp] theorem drainEnd_assembler (s : State) :
    (drainEnd s).assembler = s.assembler := by unfold drainEnd; (try dsimp only); (repeat' split) <;> simp
@[simp] theorem drainEnd_views (s : State) :
    (drainEnd s).views = s.views := by unfold drainEnd; (try dsimp only); (repeat' split) <;> simp
@[simp] theorem drainEnd_pins (s : State) :
    (drainEnd s).pins = s.pins := by unfold drainEnd; (try dsimp only); (repeat' split) <;> simp
@[simp] theorem drainEnd_freeCount (s : State) :
    (drainEnd s).freeCount = s.freeCount := by unfold drainEnd; (try dsimp only); (repeat' split) <;> simp
@[simp] theorem drainEnd_pending (s : State) :
    (drainEnd s).pending = s.pending := by unfold drainEnd; (try dsimp only); (repeat' split) <;> simp

/-! `advanceTo` changes at most: time. -/
@[simp] theorem advanceTo_grid (v : Nat) (s : State) :
    (advanceTo v s).grid = s.grid := by unfold advanceTo; split <;> rfl
@[simp] theorem advanceTo_links (v : Nat) (s : State) :
    (advanceTo v s).links = s.links := by unfold advanceTo; split <;> rfl
@[simp] theorem advanceTo_ingest (v : Nat) (s : State) :
    (advanceTo v s).ingest = s.ingest := by unfold advanceTo; split <;> rfl
@[simp] theorem advanceTo_sources (v : Nat) (s : State) :
    (advanceTo v s).sources = s.sources := by unfold advanceTo; split <;> rfl
@[simp] theorem advanceTo_window (v : Nat) (s : State) :
    (advanceTo v s).window = s.window := by unfold advanceTo; split <;> rfl
@[simp] theorem advanceTo_assembler (v : Nat) (s : State) :
    (advanceTo v s).assembler = s.assembler := by unfold advanceTo; split <;> rfl
@[simp] theorem advanceTo_views (v : Nat) (s : State) :
    (advanceTo v s).views = s.views := by unfold advanceTo; split <;> rfl
@[simp] theorem advanceTo_release (v : Nat) (s : State) :
    (advanceTo v s).release = s.release := by unfold advanceTo; split <;> rfl
@[simp] theorem advanceTo_command (v : Nat) (s : State) :
    (advanceTo v s).command = s.command := by unfold advanceTo; split <;> rfl
@[simp] theorem advanceTo_reporting (v : Nat) (s : State) :
    (advanceTo v s).reporting = s.reporting := by unfold advanceTo; split <;> rfl
@[simp] theorem advanceTo_pins (v : Nat) (s : State) :
    (advanceTo v s).pins = s.pins := by unfold advanceTo; split <;> rfl
@[simp] theorem advanceTo_freeCount (v : Nat) (s : State) :
    (advanceTo v s).freeCount = s.freeCount := by unfold advanceTo; split <;> rfl
@[simp] theorem advanceTo_pending (v : Nat) (s : State) :
    (advanceTo v s).pending = s.pending := by unfold advanceTo; split <;> rfl

/-- The take changes nothing else of the window than the slot's state and the head of the queue (R121). -/
theorem takeHead_window (n : Nat) (rest : List Nat) (s : State) :
    (takeHead n rest s).1.window = { s.window with
      assemblyQueue := rest
      slots := tableModify n (fun slot => { slot with state := .assembling }) s.window.slots } := by
  unfold takeHead; dsimp only; (repeat' split) <;> simp

end Sys2Proof.Machine
end

