-- ==== Sys2Proof/Laws/Commands.lean ====
section
/-! SUPPORT. Frames of the ingest side, placement, and the Command Link. -/

namespace Sys2Proof.Machine

/-! `recordUnknown` changes at most: links, ingest, command, reporting, release. -/
@[simp] theorem recordUnknown_time (f : IngestFrame) (s : State) :
    (recordUnknown f s).time = s.time := by unfold recordUnknown; (try dsimp only); (repeat' split) <;> simp
@[simp] theorem recordUnknown_grid (f : IngestFrame) (s : State) :
    (recordUnknown f s).grid = s.grid := by unfold recordUnknown; (try dsimp only); (repeat' split) <;> simp
@[simp] theorem recordUnknown_sources (f : IngestFrame) (s : State) :
    (recordUnknown f s).sources = s.sources := by unfold recordUnknown; (try dsimp only); (repeat' split) <;> simp
@[simp] theorem recordUnknown_window (f : IngestFrame) (s : State) :
    (recordUnknown f s).window = s.window := by unfold recordUnknown; (try dsimp only); (repeat' split) <;> simp
@[simp] theorem recordUnknown_assembler (f : IngestFrame) (s : State) :
    (recordUnknown f s).assembler = s.assembler := by unfold recordUnknown; (try dsimp only); (repeat' split) <;> simp
@[simp] theorem recordUnknown_views (f : IngestFrame) (s : State) :
    (recordUnknown f s).views = s.views := by unfold recordUnknown; (try dsimp only); (repeat' split) <;> simp
@[simp] theorem recordUnknown_pins (f : IngestFrame) (s : State) :
    (recordUnknown f s).pins = s.pins := by unfold recordUnknown; (try dsimp only); (repeat' split) <;> simp
@[simp] theorem recordUnknown_freeCount (f : IngestFrame) (s : State) :
    (recordUnknown f s).freeCount = s.freeCount := by unfold recordUnknown; (try dsimp only); (repeat' split) <;> simp
@[simp] theorem recordUnknown_pending (f : IngestFrame) (s : State) :
    (recordUnknown f s).pending = s.pending := by unfold recordUnknown; (try dsimp only); (repeat' split) <;> simp

/-! `passOver` changes at most: links. -/
@[simp] theorem passOver_time (c : LinkId) (s : State) (l : LinkId) :
    (passOver c s l).time = s.time := by unfold passOver; (repeat' split) <;> simp
@[simp] theorem passOver_grid (c : LinkId) (s : State) (l : LinkId) :
    (passOver c s l).grid = s.grid := by unfold passOver; (repeat' split) <;> simp
@[simp] theorem passOver_ingest (c : LinkId) (s : State) (l : LinkId) :
    (passOver c s l).ingest = s.ingest := by unfold passOver; (repeat' split) <;> simp
@[simp] theorem passOver_sources (c : LinkId) (s : State) (l : LinkId) :
    (passOver c s l).sources = s.sources := by unfold passOver; (repeat' split) <;> simp
@[simp] theorem passOver_window (c : LinkId) (s : State) (l : LinkId) :
    (passOver c s l).window = s.window := by unfold passOver; (repeat' split) <;> simp
@[simp] theorem passOver_assembler (c : LinkId) (s : State) (l : LinkId) :
    (passOver c s l).assembler = s.assembler := by unfold passOver; (repeat' split) <;> simp
@[simp] theorem passOver_views (c : LinkId) (s : State) (l : LinkId) :
    (passOver c s l).views = s.views := by unfold passOver; (repeat' split) <;> simp
@[simp] theorem passOver_release (c : LinkId) (s : State) (l : LinkId) :
    (passOver c s l).release = s.release := by unfold passOver; (repeat' split) <;> simp
@[simp] theorem passOver_command (c : LinkId) (s : State) (l : LinkId) :
    (passOver c s l).command = s.command := by unfold passOver; (repeat' split) <;> simp
@[simp] theorem passOver_reporting (c : LinkId) (s : State) (l : LinkId) :
    (passOver c s l).reporting = s.reporting := by unfold passOver; (repeat' split) <;> simp
@[simp] theorem passOver_pins (c : LinkId) (s : State) (l : LinkId) :
    (passOver c s l).pins = s.pins := by unfold passOver; (repeat' split) <;> simp
@[simp] theorem passOver_freeCount (c : LinkId) (s : State) (l : LinkId) :
    (passOver c s l).freeCount = s.freeCount := by unfold passOver; (repeat' split) <;> simp
@[simp] theorem passOver_pending (c : LinkId) (s : State) (l : LinkId) :
    (passOver c s l).pending = s.pending := by unfold passOver; (repeat' split) <;> simp

/-! `passOverAll` changes at most: links. -/
@[simp] theorem passOverAll_time (c : LinkId) (l : List LinkId) (s : State) :
    (l.foldl (passOver c) s).time = s.time := foldl_keep (fun a : State => a.time) (fun a i => passOver_time c a i) _ _
@[simp] theorem passOverAll_grid (c : LinkId) (l : List LinkId) (s : State) :
    (l.foldl (passOver c) s).grid = s.grid := foldl_keep (fun a : State => a.grid) (fun a i => passOver_grid c a i) _ _
@[simp] theorem passOverAll_ingest (c : LinkId) (l : List LinkId) (s : State) :
    (l.foldl (passOver c) s).ingest = s.ingest := foldl_keep (fun a : State => a.ingest) (fun a i => passOver_ingest c a i) _ _
@[simp] theorem passOverAll_sources (c : LinkId) (l : List LinkId) (s : State) :
    (l.foldl (passOver c) s).sources = s.sources := foldl_keep (fun a : State => a.sources) (fun a i => passOver_sources c a i) _ _
@[simp] theorem passOverAll_window (c : LinkId) (l : List LinkId) (s : State) :
    (l.foldl (passOver c) s).window = s.window := foldl_keep (fun a : State => a.window) (fun a i => passOver_window c a i) _ _
@[simp] theorem passOverAll_assembler (c : LinkId) (l : List LinkId) (s : State) :
    (l.foldl (passOver c) s).assembler = s.assembler := foldl_keep (fun a : State => a.assembler) (fun a i => passOver_assembler c a i) _ _
@[simp] theorem passOverAll_views (c : LinkId) (l : List LinkId) (s : State) :
    (l.foldl (passOver c) s).views = s.views := foldl_keep (fun a : State => a.views) (fun a i => passOver_views c a i) _ _
@[simp] theorem passOverAll_release (c : LinkId) (l : List LinkId) (s : State) :
    (l.foldl (passOver c) s).release = s.release := foldl_keep (fun a : State => a.release) (fun a i => passOver_release c a i) _ _
@[simp] theorem passOverAll_command (c : LinkId) (l : List LinkId) (s : State) :
    (l.foldl (passOver c) s).command = s.command := foldl_keep (fun a : State => a.command) (fun a i => passOver_command c a i) _ _
@[simp] theorem passOverAll_reporting (c : LinkId) (l : List LinkId) (s : State) :
    (l.foldl (passOver c) s).reporting = s.reporting := foldl_keep (fun a : State => a.reporting) (fun a i => passOver_reporting c a i) _ _
@[simp] theorem passOverAll_pins (c : LinkId) (l : List LinkId) (s : State) :
    (l.foldl (passOver c) s).pins = s.pins := foldl_keep (fun a : State => a.pins) (fun a i => passOver_pins c a i) _ _
@[simp] theorem passOverAll_freeCount (c : LinkId) (l : List LinkId) (s : State) :
    (l.foldl (passOver c) s).freeCount = s.freeCount := foldl_keep (fun a : State => a.freeCount) (fun a i => passOver_freeCount c a i) _ _
@[simp] theorem passOverAll_pending (c : LinkId) (l : List LinkId) (s : State) :
    (l.foldl (passOver c) s).pending = s.pending := foldl_keep (fun a : State => a.pending) (fun a i => passOver_pending c a i) _ _

/-! `grantTo` changes at most: links, ingest, command, reporting, release. -/
@[simp] theorem grantTo_time (l : LinkId) (f : IngestFrame) (r : List IngestFrame) (s : State) :
    (grantTo l f r s).time = s.time := by unfold grantTo; (try dsimp only); (repeat' split) <;> simp
@[simp] theorem grantTo_grid (l : LinkId) (f : IngestFrame) (r : List IngestFrame) (s : State) :
    (grantTo l f r s).grid = s.grid := by unfold grantTo; (try dsimp only); (repeat' split) <;> simp
@[simp] theorem grantTo_sources (l : LinkId) (f : IngestFrame) (r : List IngestFrame) (s : State) :
    (grantTo l f r s).sources = s.sources := by unfold grantTo; (try dsimp only); (repeat' split) <;> simp
@[simp] theorem grantTo_window (l : LinkId) (f : IngestFrame) (r : List IngestFrame) (s : State) :
    (grantTo l f r s).window = s.window := by unfold grantTo; (try dsimp only); (repeat' split) <;> simp
@[simp] theorem grantTo_assembler (l : LinkId) (f : IngestFrame) (r : List IngestFrame) (s : State) :
    (grantTo l f r s).assembler = s.assembler := by unfold grantTo; (try dsimp only); (repeat' split) <;> simp
@[simp] theorem grantTo_views (l : LinkId) (f : IngestFrame) (r : List IngestFrame) (s : State) :
    (grantTo l f r s).views = s.views := by unfold grantTo; (try dsimp only); (repeat' split) <;> simp
@[simp] theorem grantTo_pins (l : LinkId) (f : IngestFrame) (r : List IngestFrame) (s : State) :
    (grantTo l f r s).pins = s.pins := by unfold grantTo; (try dsimp only); (repeat' split) <;> simp
@[simp] theorem grantTo_freeCount (l : LinkId) (f : IngestFrame) (r : List IngestFrame) (s : State) :
    (grantTo l f r s).freeCount = s.freeCount := by unfold grantTo; (try dsimp only); (repeat' split) <;> simp
@[simp] theorem grantTo_pending (l : LinkId) (f : IngestFrame) (r : List IngestFrame) (s : State) :
    (grantTo l f r s).pending = s.pending := by unfold grantTo; (try dsimp only); (repeat' split) <;> simp

/-! `grants` changes at most: links, ingest, command, reporting, release. -/
@[simp] theorem grants_time (k : Nat) (s : State) :
    (grants k s).time = s.time := by
  induction k generalizing s with
  | zero => rfl
  | succ k ih => unfold grants; (repeat' split) <;> simp [ih]
@[simp] theorem grants_grid (k : Nat) (s : State) :
    (grants k s).grid = s.grid := by
  induction k generalizing s with
  | zero => rfl
  | succ k ih => unfold grants; (repeat' split) <;> simp [ih]
@[simp] theorem grants_sources (k : Nat) (s : State) :
    (grants k s).sources = s.sources := by
  induction k generalizing s with
  | zero => rfl
  | succ k ih => unfold grants; (repeat' split) <;> simp [ih]
@[simp] theorem grants_window (k : Nat) (s : State) :
    (grants k s).window = s.window := by
  induction k generalizing s with
  | zero => rfl
  | succ k ih => unfold grants; (repeat' split) <;> simp [ih]
@[simp] theorem grants_assembler (k : Nat) (s : State) :
    (grants k s).assembler = s.assembler := by
  induction k generalizing s with
  | zero => rfl
  | succ k ih => unfold grants; (repeat' split) <;> simp [ih]
@[simp] theorem grants_views (k : Nat) (s : State) :
    (grants k s).views = s.views := by
  induction k generalizing s with
  | zero => rfl
  | succ k ih => unfold grants; (repeat' split) <;> simp [ih]
@[simp] theorem grants_pins (k : Nat) (s : State) :
    (grants k s).pins = s.pins := by
  induction k generalizing s with
  | zero => rfl
  | succ k ih => unfold grants; (repeat' split) <;> simp [ih]
@[simp] theorem grants_freeCount (k : Nat) (s : State) :
    (grants k s).freeCount = s.freeCount := by
  induction k generalizing s with
  | zero => rfl
  | succ k ih => unfold grants; (repeat' split) <;> simp [ih]
@[simp] theorem grants_pending (k : Nat) (s : State) :
    (grants k s).pending = s.pending := by
  induction k generalizing s with
  | zero => rfl
  | succ k ih => unfold grants; (repeat' split) <;> simp [ih]

/-! `arbitrate` changes at most: links, ingest, command, reporting, release. -/
@[simp] theorem arbitrate_time (s : State) :
    (arbitrate s).time = s.time := by simp [arbitrate]
@[simp] theorem arbitrate_grid (s : State) :
    (arbitrate s).grid = s.grid := by simp [arbitrate]
@[simp] theorem arbitrate_sources (s : State) :
    (arbitrate s).sources = s.sources := by simp [arbitrate]
@[simp] theorem arbitrate_window (s : State) :
    (arbitrate s).window = s.window := by simp [arbitrate]
@[simp] theorem arbitrate_assembler (s : State) :
    (arbitrate s).assembler = s.assembler := by simp [arbitrate]
@[simp] theorem arbitrate_views (s : State) :
    (arbitrate s).views = s.views := by simp [arbitrate]
@[simp] theorem arbitrate_pins (s : State) :
    (arbitrate s).pins = s.pins := by simp [arbitrate]
@[simp] theorem arbitrate_freeCount (s : State) :
    (arbitrate s).freeCount = s.freeCount := by simp [arbitrate]
@[simp] theorem arbitrate_pending (s : State) :
    (arbitrate s).pending = s.pending := by simp [arbitrate]

/-! `endDispatch` changes at most: links, ingest, command, reporting, release. -/
@[simp] theorem endDispatch_time (s : State) :
    (endDispatch s).time = s.time := by simp [endDispatch]
@[simp] theorem endDispatch_grid (s : State) :
    (endDispatch s).grid = s.grid := by simp [endDispatch]
@[simp] theorem endDispatch_sources (s : State) :
    (endDispatch s).sources = s.sources := by simp [endDispatch]
@[simp] theorem endDispatch_window (s : State) :
    (endDispatch s).window = s.window := by simp [endDispatch]
@[simp] theorem endDispatch_assembler (s : State) :
    (endDispatch s).assembler = s.assembler := by simp [endDispatch]
@[simp] theorem endDispatch_views (s : State) :
    (endDispatch s).views = s.views := by simp [endDispatch]
@[simp] theorem endDispatch_pins (s : State) :
    (endDispatch s).pins = s.pins := by simp [endDispatch]
@[simp] theorem endDispatch_freeCount (s : State) :
    (endDispatch s).freeCount = s.freeCount := by simp [endDispatch]
@[simp] theorem endDispatch_pending (s : State) :
    (endDispatch s).pending = s.pending := by simp [endDispatch]

/-! `offerFrame` changes at most: links, ingest, command, reporting, release. -/
@[simp] theorem offerFrame_time (f : IngestFrame) (s : State) :
    (offerFrame f s).time = s.time := by unfold offerFrame; (try dsimp only); (repeat' split) <;> simp
@[simp] theorem offerFrame_grid (f : IngestFrame) (s : State) :
    (offerFrame f s).grid = s.grid := by unfold offerFrame; (try dsimp only); (repeat' split) <;> simp
@[simp] theorem offerFrame_sources (f : IngestFrame) (s : State) :
    (offerFrame f s).sources = s.sources := by unfold offerFrame; (try dsimp only); (repeat' split) <;> simp
@[simp] theorem offerFrame_window (f : IngestFrame) (s : State) :
    (offerFrame f s).window = s.window := by unfold offerFrame; (try dsimp only); (repeat' split) <;> simp
@[simp] theorem offerFrame_assembler (f : IngestFrame) (s : State) :
    (offerFrame f s).assembler = s.assembler := by unfold offerFrame; (try dsimp only); (repeat' split) <;> simp
@[simp] theorem offerFrame_views (f : IngestFrame) (s : State) :
    (offerFrame f s).views = s.views := by unfold offerFrame; (try dsimp only); (repeat' split) <;> simp
@[simp] theorem offerFrame_pins (f : IngestFrame) (s : State) :
    (offerFrame f s).pins = s.pins := by unfold offerFrame; (try dsimp only); (repeat' split) <;> simp
@[simp] theorem offerFrame_freeCount (f : IngestFrame) (s : State) :
    (offerFrame f s).freeCount = s.freeCount := by unfold offerFrame; (try dsimp only); (repeat' split) <;> simp
@[simp] theorem offerFrame_pending (f : IngestFrame) (s : State) :
    (offerFrame f s).pending = s.pending := by unfold offerFrame; (try dsimp only); (repeat' split) <;> simp

/-! `completeFrame` changes at most: links, ingest, command, reporting, release. -/
@[simp] theorem completeFrame_time (l : LinkId) (a b : List Byte) (s : State) :
    (completeFrame l a b s).time = s.time := by unfold completeFrame; (try dsimp only); (repeat' split) <;> simp
@[simp] theorem completeFrame_grid (l : LinkId) (a b : List Byte) (s : State) :
    (completeFrame l a b s).grid = s.grid := by unfold completeFrame; (try dsimp only); (repeat' split) <;> simp
@[simp] theorem completeFrame_sources (l : LinkId) (a b : List Byte) (s : State) :
    (completeFrame l a b s).sources = s.sources := by unfold completeFrame; (try dsimp only); (repeat' split) <;> simp
@[simp] theorem completeFrame_window (l : LinkId) (a b : List Byte) (s : State) :
    (completeFrame l a b s).window = s.window := by unfold completeFrame; (try dsimp only); (repeat' split) <;> simp
@[simp] theorem completeFrame_assembler (l : LinkId) (a b : List Byte) (s : State) :
    (completeFrame l a b s).assembler = s.assembler := by unfold completeFrame; (try dsimp only); (repeat' split) <;> simp
@[simp] theorem completeFrame_views (l : LinkId) (a b : List Byte) (s : State) :
    (completeFrame l a b s).views = s.views := by unfold completeFrame; (try dsimp only); (repeat' split) <;> simp
@[simp] theorem completeFrame_pins (l : LinkId) (a b : List Byte) (s : State) :
    (completeFrame l a b s).pins = s.pins := by unfold completeFrame; (try dsimp only); (repeat' split) <;> simp
@[simp] theorem completeFrame_freeCount (l : LinkId) (a b : List Byte) (s : State) :
    (completeFrame l a b s).freeCount = s.freeCount := by unfold completeFrame; (try dsimp only); (repeat' split) <;> simp
@[simp] theorem completeFrame_pending (l : LinkId) (a b : List Byte) (s : State) :
    (completeFrame l a b s).pending = s.pending := by unfold completeFrame; (try dsimp only); (repeat' split) <;> simp

/-! `ingestByte` changes at most: links, ingest, command, reporting, release. -/
@[simp] theorem ingestByte_time (l : LinkId) (b : Byte) (s : State) :
    (ingestByte l b s).time = s.time := by unfold ingestByte; (try dsimp only); (repeat' split) <;> simp
@[simp] theorem ingestByte_grid (l : LinkId) (b : Byte) (s : State) :
    (ingestByte l b s).grid = s.grid := by unfold ingestByte; (try dsimp only); (repeat' split) <;> simp
@[simp] theorem ingestByte_sources (l : LinkId) (b : Byte) (s : State) :
    (ingestByte l b s).sources = s.sources := by unfold ingestByte; (try dsimp only); (repeat' split) <;> simp
@[simp] theorem ingestByte_window (l : LinkId) (b : Byte) (s : State) :
    (ingestByte l b s).window = s.window := by unfold ingestByte; (try dsimp only); (repeat' split) <;> simp
@[simp] theorem ingestByte_assembler (l : LinkId) (b : Byte) (s : State) :
    (ingestByte l b s).assembler = s.assembler := by unfold ingestByte; (try dsimp only); (repeat' split) <;> simp
@[simp] theorem ingestByte_views (l : LinkId) (b : Byte) (s : State) :
    (ingestByte l b s).views = s.views := by unfold ingestByte; (try dsimp only); (repeat' split) <;> simp
@[simp] theorem ingestByte_pins (l : LinkId) (b : Byte) (s : State) :
    (ingestByte l b s).pins = s.pins := by unfold ingestByte; (try dsimp only); (repeat' split) <;> simp
@[simp] theorem ingestByte_freeCount (l : LinkId) (b : Byte) (s : State) :
    (ingestByte l b s).freeCount = s.freeCount := by unfold ingestByte; (try dsimp only); (repeat' split) <;> simp
@[simp] theorem ingestByte_pending (l : LinkId) (b : Byte) (s : State) :
    (ingestByte l b s).pending = s.pending := by unfold ingestByte; (try dsimp only); (repeat' split) <;> simp

/-! `refuseSample` changes at most: sources, window, command, reporting, release. -/
@[simp] theorem refuseSample_time (i : Nat) (r : SampleRefusal) (s : State) :
    (refuseSample i r s).time = s.time := by unfold refuseSample; (try dsimp only); (repeat' split) <;> simp
@[simp] theorem refuseSample_grid (i : Nat) (r : SampleRefusal) (s : State) :
    (refuseSample i r s).grid = s.grid := by unfold refuseSample; (try dsimp only); (repeat' split) <;> simp
@[simp] theorem refuseSample_links (i : Nat) (r : SampleRefusal) (s : State) :
    (refuseSample i r s).links = s.links := by unfold refuseSample; (try dsimp only); (repeat' split) <;> simp
@[simp] theorem refuseSample_ingest (i : Nat) (r : SampleRefusal) (s : State) :
    (refuseSample i r s).ingest = s.ingest := by unfold refuseSample; (try dsimp only); (repeat' split) <;> simp
@[simp] theorem refuseSample_assembler (i : Nat) (r : SampleRefusal) (s : State) :
    (refuseSample i r s).assembler = s.assembler := by unfold refuseSample; (try dsimp only); (repeat' split) <;> simp
@[simp] theorem refuseSample_views (i : Nat) (r : SampleRefusal) (s : State) :
    (refuseSample i r s).views = s.views := by unfold refuseSample; (try dsimp only); (repeat' split) <;> simp
@[simp] theorem refuseSample_pins (i : Nat) (r : SampleRefusal) (s : State) :
    (refuseSample i r s).pins = s.pins := by unfold refuseSample; (try dsimp only); (repeat' split) <;> simp
@[simp] theorem refuseSample_freeCount (i : Nat) (r : SampleRefusal) (s : State) :
    (refuseSample i r s).freeCount = s.freeCount := by unfold refuseSample; (try dsimp only); (repeat' split) <;> simp
@[simp] theorem refuseSample_pending (i : Nat) (r : SampleRefusal) (s : State) :
    (refuseSample i r s).pending = s.pending := by unfold refuseSample; (try dsimp only); (repeat' split) <;> simp

/-! `insertRecord` changes at most: window. -/
@[simp] theorem insertRecord_time (i : Nat) (r : SampleRecord) (s : State) :
    (insertRecord i r s).time = s.time := by unfold insertRecord; (try dsimp only); (repeat' split) <;> simp
@[simp] theorem insertRecord_grid (i : Nat) (r : SampleRecord) (s : State) :
    (insertRecord i r s).grid = s.grid := by unfold insertRecord; (try dsimp only); (repeat' split) <;> simp
@[simp] theorem insertRecord_links (i : Nat) (r : SampleRecord) (s : State) :
    (insertRecord i r s).links = s.links := by unfold insertRecord; (try dsimp only); (repeat' split) <;> simp
@[simp] theorem insertRecord_ingest (i : Nat) (r : SampleRecord) (s : State) :
    (insertRecord i r s).ingest = s.ingest := by unfold insertRecord; (try dsimp only); (repeat' split) <;> simp
@[simp] theorem insertRecord_sources (i : Nat) (r : SampleRecord) (s : State) :
    (insertRecord i r s).sources = s.sources := by unfold insertRecord; (try dsimp only); (repeat' split) <;> simp
@[simp] theorem insertRecord_assembler (i : Nat) (r : SampleRecord) (s : State) :
    (insertRecord i r s).assembler = s.assembler := by unfold insertRecord; (try dsimp only); (repeat' split) <;> simp
@[simp] theorem insertRecord_views (i : Nat) (r : SampleRecord) (s : State) :
    (insertRecord i r s).views = s.views := by unfold insertRecord; (try dsimp only); (repeat' split) <;> simp
@[simp] theorem insertRecord_release (i : Nat) (r : SampleRecord) (s : State) :
    (insertRecord i r s).release = s.release := by unfold insertRecord; (try dsimp only); (repeat' split) <;> simp
@[simp] theorem insertRecord_command (i : Nat) (r : SampleRecord) (s : State) :
    (insertRecord i r s).command = s.command := by unfold insertRecord; (try dsimp only); (repeat' split) <;> simp
@[simp] theorem insertRecord_reporting (i : Nat) (r : SampleRecord) (s : State) :
    (insertRecord i r s).reporting = s.reporting := by unfold insertRecord; (try dsimp only); (repeat' split) <;> simp
@[simp] theorem insertRecord_pins (i : Nat) (r : SampleRecord) (s : State) :
    (insertRecord i r s).pins = s.pins := by unfold insertRecord; (try dsimp only); (repeat' split) <;> simp
@[simp] theorem insertRecord_freeCount (i : Nat) (r : SampleRecord) (s : State) :
    (insertRecord i r s).freeCount = s.freeCount := by unfold insertRecord; (try dsimp only); (repeat' split) <;> simp
@[simp] theorem insertRecord_pending (i : Nat) (r : SampleRecord) (s : State) :
    (insertRecord i r s).pending = s.pending := by unfold insertRecord; (try dsimp only); (repeat' split) <;> simp

/-! `acceptSample` changes at most: sources, window, assembler, views, command, reporting, release. -/
@[simp] theorem acceptSample_time (i : Nat) (f : IngestFrame) (p : SamplePoint) (s : State) :
    (acceptSample i f p s).time = s.time := by unfold acceptSample; (try dsimp only); (repeat' split) <;> simp
@[simp] theorem acceptSample_grid (i : Nat) (f : IngestFrame) (p : SamplePoint) (s : State) :
    (acceptSample i f p s).grid = s.grid := by unfold acceptSample; (try dsimp only); (repeat' split) <;> simp
@[simp] theorem acceptSample_links (i : Nat) (f : IngestFrame) (p : SamplePoint) (s : State) :
    (acceptSample i f p s).links = s.links := by unfold acceptSample; (try dsimp only); (repeat' split) <;> simp
@[simp] theorem acceptSample_ingest (i : Nat) (f : IngestFrame) (p : SamplePoint) (s : State) :
    (acceptSample i f p s).ingest = s.ingest := by unfold acceptSample; (try dsimp only); (repeat' split) <;> simp
@[simp] theorem acceptSample_pins (i : Nat) (f : IngestFrame) (p : SamplePoint) (s : State) :
    (acceptSample i f p s).pins = s.pins := by unfold acceptSample; (try dsimp only); (repeat' split) <;> simp
@[simp] theorem acceptSample_freeCount (i : Nat) (f : IngestFrame) (p : SamplePoint) (s : State) :
    (acceptSample i f p s).freeCount = s.freeCount := by unfold acceptSample; (try dsimp only); (repeat' split) <;> simp
@[simp] theorem acceptSample_pending (i : Nat) (f : IngestFrame) (p : SamplePoint) (s : State) :
    (acceptSample i f p s).pending = s.pending := by unfold acceptSample; (try dsimp only); (repeat' split) <;> simp

/-! `placeSample` changes at most: sources, window, assembler, views, command, reporting, release, links, ingest. -/
@[simp] theorem placeSample_time (d : Dispatch) (s : State) :
    (placeSample d s).time = s.time := by unfold placeSample; (try dsimp only); (repeat' split) <;> simp
@[simp] theorem placeSample_grid (d : Dispatch) (s : State) :
    (placeSample d s).grid = s.grid := by unfold placeSample; (try dsimp only); (repeat' split) <;> simp
@[simp] theorem placeSample_pins (d : Dispatch) (s : State) :
    (placeSample d s).pins = s.pins := by unfold placeSample; (try dsimp only); (repeat' split) <;> simp
@[simp] theorem placeSample_freeCount (d : Dispatch) (s : State) :
    (placeSample d s).freeCount = s.freeCount := by unfold placeSample; (try dsimp only); (repeat' split) <;> simp
@[simp] theorem placeSample_pending (d : Dispatch) (s : State) :
    (placeSample d s).pending = s.pending := by unfold placeSample; (try dsimp only); (repeat' split) <;> simp

/-! `applyDescription` changes at most: sources, window, assembler, views, command, reporting, release. -/
@[simp] theorem applyDescription_time (i : Nat) (h : SourceShape) (s : State) :
    (applyDescription i h s).time = s.time := by unfold applyDescription; (try dsimp only); (repeat' split) <;> simp
@[simp] theorem applyDescription_grid (i : Nat) (h : SourceShape) (s : State) :
    (applyDescription i h s).grid = s.grid := by unfold applyDescription; (try dsimp only); (repeat' split) <;> simp
@[simp] theorem applyDescription_links (i : Nat) (h : SourceShape) (s : State) :
    (applyDescription i h s).links = s.links := by unfold applyDescription; (try dsimp only); (repeat' split) <;> simp
@[simp] theorem applyDescription_ingest (i : Nat) (h : SourceShape) (s : State) :
    (applyDescription i h s).ingest = s.ingest := by unfold applyDescription; (try dsimp only); (repeat' split) <;> simp
@[simp] theorem applyDescription_pins (i : Nat) (h : SourceShape) (s : State) :
    (applyDescription i h s).pins = s.pins := by unfold applyDescription; (try dsimp only); (repeat' split) <;> simp
@[simp] theorem applyDescription_freeCount (i : Nat) (h : SourceShape) (s : State) :
    (applyDescription i h s).freeCount = s.freeCount := by unfold applyDescription; (try dsimp only); (repeat' split) <;> simp
@[simp] theorem applyDescription_pending (i : Nat) (h : SourceShape) (s : State) :
    (applyDescription i h s).pending = s.pending := by unfold applyDescription; (try dsimp only); (repeat' split) <;> simp

/-! `describe` changes at most: sources, window, assembler, views, command, reporting, release, links, ingest. -/
@[simp] theorem describe_time (d : Dispatch) (s : State) :
    (describe d s).time = s.time := by unfold describe; (try dsimp only); (repeat' split) <;> simp
@[simp] theorem describe_grid (d : Dispatch) (s : State) :
    (describe d s).grid = s.grid := by unfold describe; (try dsimp only); (repeat' split) <;> simp
@[simp] theorem describe_pins (d : Dispatch) (s : State) :
    (describe d s).pins = s.pins := by unfold describe; (try dsimp only); (repeat' split) <;> simp
@[simp] theorem describe_freeCount (d : Dispatch) (s : State) :
    (describe d s).freeCount = s.freeCount := by unfold describe; (try dsimp only); (repeat' split) <;> simp
@[simp] theorem describe_pending (d : Dispatch) (s : State) :
    (describe d s).pending = s.pending := by unfold describe; (try dsimp only); (repeat' split) <;> simp

/-! `endAssembly` changes at most: sources, window, assembler, views, command, reporting, release. -/
@[simp] theorem endAssembly_time (n : Nat) (s : State) :
    (endAssembly n s).time = s.time := by simp [endAssembly]
@[simp] theorem endAssembly_grid (n : Nat) (s : State) :
    (endAssembly n s).grid = s.grid := by simp [endAssembly]
@[simp] theorem endAssembly_links (n : Nat) (s : State) :
    (endAssembly n s).links = s.links := by simp [endAssembly]
@[simp] theorem endAssembly_ingest (n : Nat) (s : State) :
    (endAssembly n s).ingest = s.ingest := by simp [endAssembly]
@[simp] theorem endAssembly_pins (n : Nat) (s : State) :
    (endAssembly n s).pins = s.pins := by simp [endAssembly]
@[simp] theorem endAssembly_freeCount (n : Nat) (s : State) :
    (endAssembly n s).freeCount = s.freeCount := by simp [endAssembly]
@[simp] theorem endAssembly_pending (n : Nat) (s : State) :
    (endAssembly n s).pending = s.pending := by simp [endAssembly]

/-! `transmissionEnd` changes at most: release. -/
@[simp] theorem transmissionEnd_time (l : RelId) (s : State) :
    (transmissionEnd l s).time = s.time := by unfold transmissionEnd; (repeat' split) <;> simp
@[simp] theorem transmissionEnd_grid (l : RelId) (s : State) :
    (transmissionEnd l s).grid = s.grid := by unfold transmissionEnd; (repeat' split) <;> simp
@[simp] theorem transmissionEnd_links (l : RelId) (s : State) :
    (transmissionEnd l s).links = s.links := by unfold transmissionEnd; (repeat' split) <;> simp
@[simp] theorem transmissionEnd_ingest (l : RelId) (s : State) :
    (transmissionEnd l s).ingest = s.ingest := by unfold transmissionEnd; (repeat' split) <;> simp
@[simp] theorem transmissionEnd_sources (l : RelId) (s : State) :
    (transmissionEnd l s).sources = s.sources := by unfold transmissionEnd; (repeat' split) <;> simp
@[simp] theorem transmissionEnd_window (l : RelId) (s : State) :
    (transmissionEnd l s).window = s.window := by unfold transmissionEnd; (repeat' split) <;> simp
@[simp] theorem transmissionEnd_assembler (l : RelId) (s : State) :
    (transmissionEnd l s).assembler = s.assembler := by unfold transmissionEnd; (repeat' split) <;> simp
@[simp] theorem transmissionEnd_views (l : RelId) (s : State) :
    (transmissionEnd l s).views = s.views := by unfold transmissionEnd; (repeat' split) <;> simp
@[simp] theorem transmissionEnd_command (l : RelId) (s : State) :
    (transmissionEnd l s).command = s.command := by unfold transmissionEnd; (repeat' split) <;> simp
@[simp] theorem transmissionEnd_reporting (l : RelId) (s : State) :
    (transmissionEnd l s).reporting = s.reporting := by unfold transmissionEnd; (repeat' split) <;> simp
@[simp] theorem transmissionEnd_pins (l : RelId) (s : State) :
    (transmissionEnd l s).pins = s.pins := by unfold transmissionEnd; (repeat' split) <;> simp
@[simp] theorem transmissionEnd_freeCount (l : RelId) (s : State) :
    (transmissionEnd l s).freeCount = s.freeCount := by unfold transmissionEnd; (repeat' split) <;> simp
@[simp] theorem transmissionEnd_pending (l : RelId) (s : State) :
    (transmissionEnd l s).pending = s.pending := by unfold transmissionEnd; (repeat' split) <;> simp

/-! `takeRequest` changes at most: command, reporting, release. -/
@[simp] theorem takeRequest_time (r : Request) (s : State) :
    (takeRequest r s).time = s.time := by unfold takeRequest commandOverflow; (repeat' split) <;> simp
@[simp] theorem takeRequest_grid (r : Request) (s : State) :
    (takeRequest r s).grid = s.grid := by unfold takeRequest commandOverflow; (repeat' split) <;> simp
@[simp] theorem takeRequest_links (r : Request) (s : State) :
    (takeRequest r s).links = s.links := by unfold takeRequest commandOverflow; (repeat' split) <;> simp
@[simp] theorem takeRequest_ingest (r : Request) (s : State) :
    (takeRequest r s).ingest = s.ingest := by unfold takeRequest commandOverflow; (repeat' split) <;> simp
@[simp] theorem takeRequest_sources (r : Request) (s : State) :
    (takeRequest r s).sources = s.sources := by unfold takeRequest commandOverflow; (repeat' split) <;> simp
@[simp] theorem takeRequest_window (r : Request) (s : State) :
    (takeRequest r s).window = s.window := by unfold takeRequest commandOverflow; (repeat' split) <;> simp
@[simp] theorem takeRequest_assembler (r : Request) (s : State) :
    (takeRequest r s).assembler = s.assembler := by unfold takeRequest commandOverflow; (repeat' split) <;> simp
@[simp] theorem takeRequest_views (r : Request) (s : State) :
    (takeRequest r s).views = s.views := by unfold takeRequest commandOverflow; (repeat' split) <;> simp
@[simp] theorem takeRequest_pins (r : Request) (s : State) :
    (takeRequest r s).pins = s.pins := by unfold takeRequest commandOverflow; (repeat' split) <;> simp
@[simp] theorem takeRequest_freeCount (r : Request) (s : State) :
    (takeRequest r s).freeCount = s.freeCount := by unfold takeRequest commandOverflow; (repeat' split) <;> simp
@[simp] theorem takeRequest_pending (r : Request) (s : State) :
    (takeRequest r s).pending = s.pending := by unfold takeRequest commandOverflow; (repeat' split) <;> simp

/-! `completeRequest` changes at most: command, reporting, release. -/
@[simp] theorem completeRequest_time (a b : List Byte) (s : State) :
    (completeRequest a b s).time = s.time := by unfold completeRequest; (repeat' split) <;> simp
@[simp] theorem completeRequest_grid (a b : List Byte) (s : State) :
    (completeRequest a b s).grid = s.grid := by unfold completeRequest; (repeat' split) <;> simp
@[simp] theorem completeRequest_links (a b : List Byte) (s : State) :
    (completeRequest a b s).links = s.links := by unfold completeRequest; (repeat' split) <;> simp
@[simp] theorem completeRequest_ingest (a b : List Byte) (s : State) :
    (completeRequest a b s).ingest = s.ingest := by unfold completeRequest; (repeat' split) <;> simp
@[simp] theorem completeRequest_sources (a b : List Byte) (s : State) :
    (completeRequest a b s).sources = s.sources := by unfold completeRequest; (repeat' split) <;> simp
@[simp] theorem completeRequest_window (a b : List Byte) (s : State) :
    (completeRequest a b s).window = s.window := by unfold completeRequest; (repeat' split) <;> simp
@[simp] theorem completeRequest_assembler (a b : List Byte) (s : State) :
    (completeRequest a b s).assembler = s.assembler := by unfold completeRequest; (repeat' split) <;> simp
@[simp] theorem completeRequest_views (a b : List Byte) (s : State) :
    (completeRequest a b s).views = s.views := by unfold completeRequest; (repeat' split) <;> simp
@[simp] theorem completeRequest_pins (a b : List Byte) (s : State) :
    (completeRequest a b s).pins = s.pins := by unfold completeRequest; (repeat' split) <;> simp
@[simp] theorem completeRequest_freeCount (a b : List Byte) (s : State) :
    (completeRequest a b s).freeCount = s.freeCount := by unfold completeRequest; (repeat' split) <;> simp
@[simp] theorem completeRequest_pending (a b : List Byte) (s : State) :
    (completeRequest a b s).pending = s.pending := by unfold completeRequest; (repeat' split) <;> simp

/-! `commandByte` changes at most: command, reporting, release. -/
@[simp] theorem commandByte_time (b : Byte) (s : State) :
    (commandByte b s).time = s.time := by unfold commandByte; (try dsimp only); (repeat' split) <;> simp
@[simp] theorem commandByte_grid (b : Byte) (s : State) :
    (commandByte b s).grid = s.grid := by unfold commandByte; (try dsimp only); (repeat' split) <;> simp
@[simp] theorem commandByte_links (b : Byte) (s : State) :
    (commandByte b s).links = s.links := by unfold commandByte; (try dsimp only); (repeat' split) <;> simp
@[simp] theorem commandByte_ingest (b : Byte) (s : State) :
    (commandByte b s).ingest = s.ingest := by unfold commandByte; (try dsimp only); (repeat' split) <;> simp
@[simp] theorem commandByte_sources (b : Byte) (s : State) :
    (commandByte b s).sources = s.sources := by unfold commandByte; (try dsimp only); (repeat' split) <;> simp
@[simp] theorem commandByte_window (b : Byte) (s : State) :
    (commandByte b s).window = s.window := by unfold commandByte; (try dsimp only); (repeat' split) <;> simp
@[simp] theorem commandByte_assembler (b : Byte) (s : State) :
    (commandByte b s).assembler = s.assembler := by unfold commandByte; (try dsimp only); (repeat' split) <;> simp
@[simp] theorem commandByte_views (b : Byte) (s : State) :
    (commandByte b s).views = s.views := by unfold commandByte; (try dsimp only); (repeat' split) <;> simp
@[simp] theorem commandByte_pins (b : Byte) (s : State) :
    (commandByte b s).pins = s.pins := by unfold commandByte; (try dsimp only); (repeat' split) <;> simp
@[simp] theorem commandByte_freeCount (b : Byte) (s : State) :
    (commandByte b s).freeCount = s.freeCount := by unfold commandByte; (try dsimp only); (repeat' split) <;> simp
@[simp] theorem commandByte_pending (b : Byte) (s : State) :
    (commandByte b s).pending = s.pending := by unfold commandByte; (try dsimp only); (repeat' split) <;> simp

end Sys2Proof.Machine
end

