-- ==== Sys2Proof/Laws/Assembly.lean ====
section
/-! SUPPORT. Which slot is in assembly, and the Assembly Queue: what the Assembler's own operations leave
of the slot it works on (R113, R121 to R123). -/

namespace Sys2Proof.Machine

@[simp] theorem State.emptyHold_current (s : State) (i : Nat) :
    (s.emptyHold i).assembler.current = s.assembler.current := rfl

@[simp] theorem keepHold_current (i : Nat) (e : Entry) (r : SampleRecord) (s : State) :
    (keepHold i e r s).assembler.current = s.assembler.current := by
  unfold keepHold; split <;> rfl

@[simp] theorem visitEntry_current (n : Nat) (c : Table SampleRecord) (a : State × Bool) (i : Nat) :
    (visitEntry n c a i).1.assembler.current = a.1.assembler.current := by
  unfold visitEntry; dsimp only; (repeat' split) <;> simp

@[simp] theorem dispositionPass_current (n : Nat) (c : Table SampleRecord) (s : State) :
    (dispositionPass n c s).1.assembler.current = s.assembler.current := by
  unfold dispositionPass
  suffices ∀ (l : List Nat) (a : State × Bool),
      (l.foldl (visitEntry n c) a).1.assembler.current = a.1.assembler.current from this _ _
  intro l
  induction l with
  | nil => intro a; rfl
  | cons i l ih => intro a; simp [ih]

@[simp] theorem considerViews_current (n : Nat) (l : List ViewId) (s : State) :
    (considerViews n l s).assembler.current = s.assembler.current := by
  induction l generalizing s with
  | nil => rfl
  | cons v l ih => unfold considerViews; (repeat' split) <;> simp [ih]

/-- The take puts its slot in assembly (R121). -/
@[simp] theorem takeHead_current (n : Nat) (rest : List Nat) (s : State) :
    (takeHead n rest s).1.assembler.current = some n := by
  unfold takeHead; dsimp only; (repeat' split) <;> simp

@[simp] theorem handOverSet_current (s : State) :
    (handOverSet s).assembler.current = s.assembler.current := by
  unfold handOverSet; (repeat' split) <;> simp

@[simp] theorem endEntry_current (i : Nat) (s : State) :
    (endEntry i s).assembler.current = s.assembler.current := by
  simp [endEntry]

@[simp] theorem endIfRetired_current (n : Nat) (s : State) (i : Nat) :
    (endIfRetired n s i).assembler.current = s.assembler.current := by
  unfold endIfRetired; dsimp only; (repeat' split) <;> simp

/-- The end of an assembly leaves no slot in assembly (R123). -/
@[simp] theorem releaseSlot_current (n : Nat) (s : State) :
    (releaseSlot n s).assembler.current = none := rfl

/-- The end of an assembly takes its slot out of the map and frees its records (R123). -/
theorem releaseSlot_window (n : Nat) (s : State) : (releaseSlot n s).window = { s.window with
    freeRecords := s.window.freeRecords +
      (match s.slot? n with | some slot => slot.contributors.length | none => 0)
    slots := tableErase n s.window.slots } := by
  unfold releaseSlot; dsimp only
  exact (foldl_keep (fun a : State => a.window) (fun a i => endIfRetired_window n a i) _ _).trans rfl

end Sys2Proof.Machine
end

