-- ==== Sys2Proof/Laws/Requests.lean ====
section
/-! SUPPORT. Frames of the events of local time and of the effects of requests. -/

namespace Sys2Proof.Machine

/-! `capture` changes at most: time, command, reporting, release. -/
@[simp] theorem capture_grid (b : Nat) (s : State) :
    (capture b s).grid = s.grid := by unfold capture; (try try dsimp only); (repeat' split) <;> simp
@[simp] theorem capture_links (b : Nat) (s : State) :
    (capture b s).links = s.links := by unfold capture; (try try dsimp only); (repeat' split) <;> simp
@[simp] theorem capture_ingest (b : Nat) (s : State) :
    (capture b s).ingest = s.ingest := by unfold capture; (try try dsimp only); (repeat' split) <;> simp
@[simp] theorem capture_sources (b : Nat) (s : State) :
    (capture b s).sources = s.sources := by unfold capture; (try try dsimp only); (repeat' split) <;> simp
@[simp] theorem capture_window (b : Nat) (s : State) :
    (capture b s).window = s.window := by unfold capture; (try try dsimp only); (repeat' split) <;> simp
@[simp] theorem capture_assembler (b : Nat) (s : State) :
    (capture b s).assembler = s.assembler := by unfold capture; (try try dsimp only); (repeat' split) <;> simp
@[simp] theorem capture_views (b : Nat) (s : State) :
    (capture b s).views = s.views := by unfold capture; (try try dsimp only); (repeat' split) <;> simp
@[simp] theorem capture_pins (b : Nat) (s : State) :
    (capture b s).pins = s.pins := by unfold capture; (try try dsimp only); (repeat' split) <;> simp
@[simp] theorem capture_freeCount (b : Nat) (s : State) :
    (capture b s).freeCount = s.freeCount := by unfold capture; (try try dsimp only); (repeat' split) <;> simp
@[simp] theorem capture_pending (b : Nat) (s : State) :
    (capture b s).pending = s.pending := by unfold capture; (try try dsimp only); (repeat' split) <;> simp

/-! `clockStep` changes at most: time, command, reporting, release. -/
@[simp] theorem clockStep_grid (s : State) :
    (clockStep s).grid = s.grid := by simp [clockStep]
@[simp] theorem clockStep_links (s : State) :
    (clockStep s).links = s.links := by simp [clockStep]
@[simp] theorem clockStep_ingest (s : State) :
    (clockStep s).ingest = s.ingest := by simp [clockStep]
@[simp] theorem clockStep_sources (s : State) :
    (clockStep s).sources = s.sources := by simp [clockStep]
@[simp] theorem clockStep_window (s : State) :
    (clockStep s).window = s.window := by simp [clockStep]
@[simp] theorem clockStep_assembler (s : State) :
    (clockStep s).assembler = s.assembler := by simp [clockStep]
@[simp] theorem clockStep_views (s : State) :
    (clockStep s).views = s.views := by simp [clockStep]
@[simp] theorem clockStep_pins (s : State) :
    (clockStep s).pins = s.pins := by simp [clockStep]
@[simp] theorem clockStep_freeCount (s : State) :
    (clockStep s).freeCount = s.freeCount := by simp [clockStep]
@[simp] theorem clockStep_pending (s : State) :
    (clockStep s).pending = s.pending := by simp [clockStep]

/-! `enterFreeRun` changes at most: time, command, reporting, release. -/
@[simp] theorem enterFreeRun_grid (c : TimeCause) (s : State) :
    (enterFreeRun c s).grid = s.grid := by simp [enterFreeRun]
@[simp] theorem enterFreeRun_links (c : TimeCause) (s : State) :
    (enterFreeRun c s).links = s.links := by simp [enterFreeRun]
@[simp] theorem enterFreeRun_ingest (c : TimeCause) (s : State) :
    (enterFreeRun c s).ingest = s.ingest := by simp [enterFreeRun]
@[simp] theorem enterFreeRun_sources (c : TimeCause) (s : State) :
    (enterFreeRun c s).sources = s.sources := by simp [enterFreeRun]
@[simp] theorem enterFreeRun_window (c : TimeCause) (s : State) :
    (enterFreeRun c s).window = s.window := by simp [enterFreeRun]
@[simp] theorem enterFreeRun_assembler (c : TimeCause) (s : State) :
    (enterFreeRun c s).assembler = s.assembler := by simp [enterFreeRun]
@[simp] theorem enterFreeRun_views (c : TimeCause) (s : State) :
    (enterFreeRun c s).views = s.views := by simp [enterFreeRun]
@[simp] theorem enterFreeRun_pins (c : TimeCause) (s : State) :
    (enterFreeRun c s).pins = s.pins := by simp [enterFreeRun]
@[simp] theorem enterFreeRun_freeCount (c : TimeCause) (s : State) :
    (enterFreeRun c s).freeCount = s.freeCount := by simp [enterFreeRun]
@[simp] theorem enterFreeRun_pending (c : TimeCause) (s : State) :
    (enterFreeRun c s).pending = s.pending := by simp [enterFreeRun]

/-! `outlierFreeRun` changes at most: time, command, reporting, release. -/
@[simp] theorem outlierFreeRun_grid (s : State) :
    (outlierFreeRun s).grid = s.grid := by unfold outlierFreeRun; (try dsimp only); (repeat' split) <;> simp
@[simp] theorem outlierFreeRun_links (s : State) :
    (outlierFreeRun s).links = s.links := by unfold outlierFreeRun; (try dsimp only); (repeat' split) <;> simp
@[simp] theorem outlierFreeRun_ingest (s : State) :
    (outlierFreeRun s).ingest = s.ingest := by unfold outlierFreeRun; (try dsimp only); (repeat' split) <;> simp
@[simp] theorem outlierFreeRun_sources (s : State) :
    (outlierFreeRun s).sources = s.sources := by unfold outlierFreeRun; (try dsimp only); (repeat' split) <;> simp
@[simp] theorem outlierFreeRun_window (s : State) :
    (outlierFreeRun s).window = s.window := by unfold outlierFreeRun; (try dsimp only); (repeat' split) <;> simp
@[simp] theorem outlierFreeRun_assembler (s : State) :
    (outlierFreeRun s).assembler = s.assembler := by unfold outlierFreeRun; (try dsimp only); (repeat' split) <;> simp
@[simp] theorem outlierFreeRun_views (s : State) :
    (outlierFreeRun s).views = s.views := by unfold outlierFreeRun; (try dsimp only); (repeat' split) <;> simp
@[simp] theorem outlierFreeRun_pins (s : State) :
    (outlierFreeRun s).pins = s.pins := by unfold outlierFreeRun; (try dsimp only); (repeat' split) <;> simp
@[simp] theorem outlierFreeRun_freeCount (s : State) :
    (outlierFreeRun s).freeCount = s.freeCount := by unfold outlierFreeRun; (try dsimp only); (repeat' split) <;> simp
@[simp] theorem outlierFreeRun_pending (s : State) :
    (outlierFreeRun s).pending = s.pending := by unfold outlierFreeRun; (try dsimp only); (repeat' split) <;> simp

/-! `outlier` changes at most: time, command, reporting, release. -/
@[simp] theorem outlier_grid (s : State) :
    (outlier s).grid = s.grid := by unfold outlier; (repeat' split) <;> simp
@[simp] theorem outlier_links (s : State) :
    (outlier s).links = s.links := by unfold outlier; (repeat' split) <;> simp
@[simp] theorem outlier_ingest (s : State) :
    (outlier s).ingest = s.ingest := by unfold outlier; (repeat' split) <;> simp
@[simp] theorem outlier_sources (s : State) :
    (outlier s).sources = s.sources := by unfold outlier; (repeat' split) <;> simp
@[simp] theorem outlier_window (s : State) :
    (outlier s).window = s.window := by unfold outlier; (repeat' split) <;> simp
@[simp] theorem outlier_assembler (s : State) :
    (outlier s).assembler = s.assembler := by unfold outlier; (repeat' split) <;> simp
@[simp] theorem outlier_views (s : State) :
    (outlier s).views = s.views := by unfold outlier; (repeat' split) <;> simp
@[simp] theorem outlier_pins (s : State) :
    (outlier s).pins = s.pins := by unfold outlier; (repeat' split) <;> simp
@[simp] theorem outlier_freeCount (s : State) :
    (outlier s).freeCount = s.freeCount := by unfold outlier; (repeat' split) <;> simp
@[simp] theorem outlier_pending (s : State) :
    (outlier s).pending = s.pending := by unfold outlier; (repeat' split) <;> simp

/-! `ppsEdge` changes at most: time, command, reporting, release. -/
@[simp] theorem ppsEdge_grid (s : State) :
    (ppsEdge s).grid = s.grid := by unfold ppsEdge; (repeat' split) <;> simp
@[simp] theorem ppsEdge_links (s : State) :
    (ppsEdge s).links = s.links := by unfold ppsEdge; (repeat' split) <;> simp
@[simp] theorem ppsEdge_ingest (s : State) :
    (ppsEdge s).ingest = s.ingest := by unfold ppsEdge; (repeat' split) <;> simp
@[simp] theorem ppsEdge_sources (s : State) :
    (ppsEdge s).sources = s.sources := by unfold ppsEdge; (repeat' split) <;> simp
@[simp] theorem ppsEdge_window (s : State) :
    (ppsEdge s).window = s.window := by unfold ppsEdge; (repeat' split) <;> simp
@[simp] theorem ppsEdge_assembler (s : State) :
    (ppsEdge s).assembler = s.assembler := by unfold ppsEdge; (repeat' split) <;> simp
@[simp] theorem ppsEdge_views (s : State) :
    (ppsEdge s).views = s.views := by unfold ppsEdge; (repeat' split) <;> simp
@[simp] theorem ppsEdge_pins (s : State) :
    (ppsEdge s).pins = s.pins := by unfold ppsEdge; (repeat' split) <;> simp
@[simp] theorem ppsEdge_freeCount (s : State) :
    (ppsEdge s).freeCount = s.freeCount := by unfold ppsEdge; (repeat' split) <;> simp
@[simp] theorem ppsEdge_pending (s : State) :
    (ppsEdge s).pending = s.pending := by unfold ppsEdge; (repeat' split) <;> simp

/-! `missingPps` changes at most: time, command, reporting, release. -/
@[simp] theorem missingPps_grid (s : State) :
    (missingPps s).grid = s.grid := by unfold missingPps; (repeat' split) <;> simp
@[simp] theorem missingPps_links (s : State) :
    (missingPps s).links = s.links := by unfold missingPps; (repeat' split) <;> simp
@[simp] theorem missingPps_ingest (s : State) :
    (missingPps s).ingest = s.ingest := by unfold missingPps; (repeat' split) <;> simp
@[simp] theorem missingPps_sources (s : State) :
    (missingPps s).sources = s.sources := by unfold missingPps; (repeat' split) <;> simp
@[simp] theorem missingPps_window (s : State) :
    (missingPps s).window = s.window := by unfold missingPps; (repeat' split) <;> simp
@[simp] theorem missingPps_assembler (s : State) :
    (missingPps s).assembler = s.assembler := by unfold missingPps; (repeat' split) <;> simp
@[simp] theorem missingPps_views (s : State) :
    (missingPps s).views = s.views := by unfold missingPps; (repeat' split) <;> simp
@[simp] theorem missingPps_pins (s : State) :
    (missingPps s).pins = s.pins := by unfold missingPps; (repeat' split) <;> simp
@[simp] theorem missingPps_freeCount (s : State) :
    (missingPps s).freeCount = s.freeCount := by unfold missingPps; (repeat' split) <;> simp
@[simp] theorem missingPps_pending (s : State) :
    (missingPps s).pending = s.pending := by unfold missingPps; (repeat' split) <;> simp

/-! `ppsCheck` changes at most: time, command, reporting, release. -/
@[simp] theorem ppsCheck_grid (s : State) :
    (ppsCheck s).grid = s.grid := by unfold ppsCheck; (try dsimp only); (repeat' split) <;> simp
@[simp] theorem ppsCheck_links (s : State) :
    (ppsCheck s).links = s.links := by unfold ppsCheck; (try dsimp only); (repeat' split) <;> simp
@[simp] theorem ppsCheck_ingest (s : State) :
    (ppsCheck s).ingest = s.ingest := by unfold ppsCheck; (try dsimp only); (repeat' split) <;> simp
@[simp] theorem ppsCheck_sources (s : State) :
    (ppsCheck s).sources = s.sources := by unfold ppsCheck; (try dsimp only); (repeat' split) <;> simp
@[simp] theorem ppsCheck_window (s : State) :
    (ppsCheck s).window = s.window := by unfold ppsCheck; (try dsimp only); (repeat' split) <;> simp
@[simp] theorem ppsCheck_assembler (s : State) :
    (ppsCheck s).assembler = s.assembler := by unfold ppsCheck; (try dsimp only); (repeat' split) <;> simp
@[simp] theorem ppsCheck_views (s : State) :
    (ppsCheck s).views = s.views := by unfold ppsCheck; (try dsimp only); (repeat' split) <;> simp
@[simp] theorem ppsCheck_pins (s : State) :
    (ppsCheck s).pins = s.pins := by unfold ppsCheck; (try dsimp only); (repeat' split) <;> simp
@[simp] theorem ppsCheck_freeCount (s : State) :
    (ppsCheck s).freeCount = s.freeCount := by unfold ppsCheck; (try dsimp only); (repeat' split) <;> simp
@[simp] theorem ppsCheck_pending (s : State) :
    (ppsCheck s).pending = s.pending := by unfold ppsCheck; (try dsimp only); (repeat' split) <;> simp

/-! `tick` changes at most: time. -/
@[simp] theorem tick_grid (s : State) :
    (tick s).grid = s.grid := by unfold tick; split <;> simp
@[simp] theorem tick_links (s : State) :
    (tick s).links = s.links := by unfold tick; split <;> simp
@[simp] theorem tick_ingest (s : State) :
    (tick s).ingest = s.ingest := by unfold tick; split <;> simp
@[simp] theorem tick_sources (s : State) :
    (tick s).sources = s.sources := by unfold tick; split <;> simp
@[simp] theorem tick_window (s : State) :
    (tick s).window = s.window := by unfold tick; split <;> simp
@[simp] theorem tick_assembler (s : State) :
    (tick s).assembler = s.assembler := by unfold tick; split <;> simp
@[simp] theorem tick_views (s : State) :
    (tick s).views = s.views := by unfold tick; split <;> simp
@[simp] theorem tick_release (s : State) :
    (tick s).release = s.release := by unfold tick; split <;> simp
@[simp] theorem tick_command (s : State) :
    (tick s).command = s.command := by unfold tick; split <;> simp
@[simp] theorem tick_reporting (s : State) :
    (tick s).reporting = s.reporting := by unfold tick; split <;> simp
@[simp] theorem tick_pins (s : State) :
    (tick s).pins = s.pins := by unfold tick; split <;> simp
@[simp] theorem tick_freeCount (s : State) :
    (tick s).freeCount = s.freeCount := by unfold tick; split <;> simp
@[simp] theorem tick_pending (s : State) :
    (tick s).pending = s.pending := by unfold tick; split <;> simp

/-! `overrun` changes at most: views, assembler, window, sources, command, reporting, release. -/
@[simp] theorem overrun_time (n : Nat) (s : State) :
    (overrun n s).time = s.time := by simp [overrun]
@[simp] theorem overrun_grid (n : Nat) (s : State) :
    (overrun n s).grid = s.grid := by simp [overrun]
@[simp] theorem overrun_links (n : Nat) (s : State) :
    (overrun n s).links = s.links := by simp [overrun]
@[simp] theorem overrun_ingest (n : Nat) (s : State) :
    (overrun n s).ingest = s.ingest := by simp [overrun]
@[simp] theorem overrun_pins (n : Nat) (s : State) :
    (overrun n s).pins = s.pins := by simp [overrun]
@[simp] theorem overrun_freeCount (n : Nat) (s : State) :
    (overrun n s).freeCount = s.freeCount := by simp [overrun]
@[simp] theorem overrun_pending (n : Nat) (s : State) :
    (overrun n s).pending = s.pending := by simp [overrun]

/-! `expiryCloses` changes at most: views, assembler, window, sources, command, reporting, release. -/
@[simp] theorem expiryCloses_time (n : Nat) (s : State) :
    (expiryCloses n s).time = s.time := by simp [expiryCloses]
@[simp] theorem expiryCloses_grid (n : Nat) (s : State) :
    (expiryCloses n s).grid = s.grid := by simp [expiryCloses]
@[simp] theorem expiryCloses_links (n : Nat) (s : State) :
    (expiryCloses n s).links = s.links := by simp [expiryCloses]
@[simp] theorem expiryCloses_ingest (n : Nat) (s : State) :
    (expiryCloses n s).ingest = s.ingest := by simp [expiryCloses]
@[simp] theorem expiryCloses_pins (n : Nat) (s : State) :
    (expiryCloses n s).pins = s.pins := by simp [expiryCloses]
@[simp] theorem expiryCloses_freeCount (n : Nat) (s : State) :
    (expiryCloses n s).freeCount = s.freeCount := by simp [expiryCloses]
@[simp] theorem expiryCloses_pending (n : Nat) (s : State) :
    (expiryCloses n s).pending = s.pending := by simp [expiryCloses]

/-! `markOverdue` changes at most: window, command, reporting, release. -/
@[simp] theorem markOverdue_time (n : Nat) (s : State) :
    (markOverdue n s).time = s.time := by unfold markOverdue; (try dsimp only); (repeat' split) <;> simp
@[simp] theorem markOverdue_grid (n : Nat) (s : State) :
    (markOverdue n s).grid = s.grid := by unfold markOverdue; (try dsimp only); (repeat' split) <;> simp
@[simp] theorem markOverdue_links (n : Nat) (s : State) :
    (markOverdue n s).links = s.links := by unfold markOverdue; (try dsimp only); (repeat' split) <;> simp
@[simp] theorem markOverdue_ingest (n : Nat) (s : State) :
    (markOverdue n s).ingest = s.ingest := by unfold markOverdue; (try dsimp only); (repeat' split) <;> simp
@[simp] theorem markOverdue_sources (n : Nat) (s : State) :
    (markOverdue n s).sources = s.sources := by unfold markOverdue; (try dsimp only); (repeat' split) <;> simp
@[simp] theorem markOverdue_assembler (n : Nat) (s : State) :
    (markOverdue n s).assembler = s.assembler := by unfold markOverdue; (try dsimp only); (repeat' split) <;> simp
@[simp] theorem markOverdue_views (n : Nat) (s : State) :
    (markOverdue n s).views = s.views := by unfold markOverdue; (try dsimp only); (repeat' split) <;> simp
@[simp] theorem markOverdue_pins (n : Nat) (s : State) :
    (markOverdue n s).pins = s.pins := by unfold markOverdue; (try dsimp only); (repeat' split) <;> simp
@[simp] theorem markOverdue_freeCount (n : Nat) (s : State) :
    (markOverdue n s).freeCount = s.freeCount := by unfold markOverdue; (try dsimp only); (repeat' split) <;> simp
@[simp] theorem markOverdue_pending (n : Nat) (s : State) :
    (markOverdue n s).pending = s.pending := by unfold markOverdue; (try dsimp only); (repeat' split) <;> simp

/-! `deadlineExpiry` changes at most: views, assembler, window, sources, command, reporting, release. -/
@[simp] theorem deadlineExpiry_time (n : Nat) (s : State) :
    (deadlineExpiry n s).time = s.time := by unfold deadlineExpiry; split <;> simp
@[simp] theorem deadlineExpiry_grid (n : Nat) (s : State) :
    (deadlineExpiry n s).grid = s.grid := by unfold deadlineExpiry; split <;> simp
@[simp] theorem deadlineExpiry_links (n : Nat) (s : State) :
    (deadlineExpiry n s).links = s.links := by unfold deadlineExpiry; split <;> simp
@[simp] theorem deadlineExpiry_ingest (n : Nat) (s : State) :
    (deadlineExpiry n s).ingest = s.ingest := by unfold deadlineExpiry; split <;> simp
@[simp] theorem deadlineExpiry_pins (n : Nat) (s : State) :
    (deadlineExpiry n s).pins = s.pins := by unfold deadlineExpiry; split <;> simp
@[simp] theorem deadlineExpiry_freeCount (n : Nat) (s : State) :
    (deadlineExpiry n s).freeCount = s.freeCount := by unfold deadlineExpiry; split <;> simp
@[simp] theorem deadlineExpiry_pending (n : Nat) (s : State) :
    (deadlineExpiry n s).pending = s.pending := by unfold deadlineExpiry; split <;> simp

/-! `expireOpened` changes at most: views, assembler, window, sources, command, reporting, release. -/
@[simp] theorem expireOpened_time (n : Nat) (s : State) :
    (expireOpened n s).time = s.time := by unfold expireOpened; (repeat' split) <;> simp
@[simp] theorem expireOpened_grid (n : Nat) (s : State) :
    (expireOpened n s).grid = s.grid := by unfold expireOpened; (repeat' split) <;> simp
@[simp] theorem expireOpened_links (n : Nat) (s : State) :
    (expireOpened n s).links = s.links := by unfold expireOpened; (repeat' split) <;> simp
@[simp] theorem expireOpened_ingest (n : Nat) (s : State) :
    (expireOpened n s).ingest = s.ingest := by unfold expireOpened; (repeat' split) <;> simp
@[simp] theorem expireOpened_pins (n : Nat) (s : State) :
    (expireOpened n s).pins = s.pins := by unfold expireOpened; (repeat' split) <;> simp
@[simp] theorem expireOpened_freeCount (n : Nat) (s : State) :
    (expireOpened n s).freeCount = s.freeCount := by unfold expireOpened; (repeat' split) <;> simp
@[simp] theorem expireOpened_pending (n : Nat) (s : State) :
    (expireOpened n s).pending = s.pending := by unfold expireOpened; (repeat' split) <;> simp

/-! `cadence` changes at most: views, assembler, window, sources, command, reporting, release. -/
@[simp] theorem cadence_time (n : Nat) (s : State) :
    (cadence n s).time = s.time := by unfold cadence; (repeat' split) <;> simp
@[simp] theorem cadence_grid (n : Nat) (s : State) :
    (cadence n s).grid = s.grid := by unfold cadence; (repeat' split) <;> simp
@[simp] theorem cadence_links (n : Nat) (s : State) :
    (cadence n s).links = s.links := by unfold cadence; (repeat' split) <;> simp
@[simp] theorem cadence_ingest (n : Nat) (s : State) :
    (cadence n s).ingest = s.ingest := by unfold cadence; (repeat' split) <;> simp
@[simp] theorem cadence_pins (n : Nat) (s : State) :
    (cadence n s).pins = s.pins := by unfold cadence; (repeat' split) <;> simp
@[simp] theorem cadence_freeCount (n : Nat) (s : State) :
    (cadence n s).freeCount = s.freeCount := by unfold cadence; (repeat' split) <;> simp
@[simp] theorem cadence_pending (n : Nat) (s : State) :
    (cadence n s).pending = s.pending := by unfold cadence; (repeat' split) <;> simp

/-! `deliverCadence` changes at most: views, assembler, window, sources, command, reporting, release, time. -/
@[simp] theorem deliverCadence_grid (n : Nat) (s : State) :
    (deliverCadence n s).grid = s.grid := by simp [deliverCadence]
@[simp] theorem deliverCadence_links (n : Nat) (s : State) :
    (deliverCadence n s).links = s.links := by simp [deliverCadence]
@[simp] theorem deliverCadence_ingest (n : Nat) (s : State) :
    (deliverCadence n s).ingest = s.ingest := by simp [deliverCadence]
@[simp] theorem deliverCadence_pins (n : Nat) (s : State) :
    (deliverCadence n s).pins = s.pins := by simp [deliverCadence]
@[simp] theorem deliverCadence_freeCount (n : Nat) (s : State) :
    (deliverCadence n s).freeCount = s.freeCount := by simp [deliverCadence]
@[simp] theorem deliverCadence_pending (n : Nat) (s : State) :
    (deliverCadence n s).pending = s.pending := by simp [deliverCadence]

/-! `setTimeValues` changes at most: time, command, reporting, release. -/
@[simp] theorem setTimeValues_grid (a b : Nat) (s : State) :
    (setTimeValues a b s).grid = s.grid := by unfold setTimeValues; (try dsimp only); split <;> simp
@[simp] theorem setTimeValues_links (a b : Nat) (s : State) :
    (setTimeValues a b s).links = s.links := by unfold setTimeValues; (try dsimp only); split <;> simp
@[simp] theorem setTimeValues_ingest (a b : Nat) (s : State) :
    (setTimeValues a b s).ingest = s.ingest := by unfold setTimeValues; (try dsimp only); split <;> simp
@[simp] theorem setTimeValues_sources (a b : Nat) (s : State) :
    (setTimeValues a b s).sources = s.sources := by unfold setTimeValues; (try dsimp only); split <;> simp
@[simp] theorem setTimeValues_window (a b : Nat) (s : State) :
    (setTimeValues a b s).window = s.window := by unfold setTimeValues; (try dsimp only); split <;> simp
@[simp] theorem setTimeValues_assembler (a b : Nat) (s : State) :
    (setTimeValues a b s).assembler = s.assembler := by unfold setTimeValues; (try dsimp only); split <;> simp
@[simp] theorem setTimeValues_views (a b : Nat) (s : State) :
    (setTimeValues a b s).views = s.views := by unfold setTimeValues; (try dsimp only); split <;> simp
@[simp] theorem setTimeValues_pins (a b : Nat) (s : State) :
    (setTimeValues a b s).pins = s.pins := by unfold setTimeValues; (try dsimp only); split <;> simp
@[simp] theorem setTimeValues_freeCount (a b : Nat) (s : State) :
    (setTimeValues a b s).freeCount = s.freeCount := by unfold setTimeValues; (try dsimp only); split <;> simp
@[simp] theorem setTimeValues_pending (a b : Nat) (s : State) :
    (setTimeValues a b s).pending = s.pending := by unfold setTimeValues; (try dsimp only); split <;> simp

/-! `applyLink` changes at most: links. -/
@[simp] theorem applyLink_time (f : List Byte) (s : State) (l : LinkId) :
    (applyLink f s l).time = s.time := rfl
@[simp] theorem applyLink_grid (f : List Byte) (s : State) (l : LinkId) :
    (applyLink f s l).grid = s.grid := rfl
@[simp] theorem applyLink_ingest (f : List Byte) (s : State) (l : LinkId) :
    (applyLink f s l).ingest = s.ingest := rfl
@[simp] theorem applyLink_sources (f : List Byte) (s : State) (l : LinkId) :
    (applyLink f s l).sources = s.sources := rfl
@[simp] theorem applyLink_window (f : List Byte) (s : State) (l : LinkId) :
    (applyLink f s l).window = s.window := rfl
@[simp] theorem applyLink_assembler (f : List Byte) (s : State) (l : LinkId) :
    (applyLink f s l).assembler = s.assembler := rfl
@[simp] theorem applyLink_views (f : List Byte) (s : State) (l : LinkId) :
    (applyLink f s l).views = s.views := rfl
@[simp] theorem applyLink_release (f : List Byte) (s : State) (l : LinkId) :
    (applyLink f s l).release = s.release := rfl
@[simp] theorem applyLink_command (f : List Byte) (s : State) (l : LinkId) :
    (applyLink f s l).command = s.command := rfl
@[simp] theorem applyLink_reporting (f : List Byte) (s : State) (l : LinkId) :
    (applyLink f s l).reporting = s.reporting := rfl
@[simp] theorem applyLink_pins (f : List Byte) (s : State) (l : LinkId) :
    (applyLink f s l).pins = s.pins := rfl
@[simp] theorem applyLink_freeCount (f : List Byte) (s : State) (l : LinkId) :
    (applyLink f s l).freeCount = s.freeCount := rfl
@[simp] theorem applyLink_pending (f : List Byte) (s : State) (l : LinkId) :
    (applyLink f s l).pending = s.pending := rfl

/-! `applyIngest` changes at most: links, ingest. -/
@[simp] theorem applyIngest_time (f : List Byte) (s : State) :
    (applyIngest f s).time = s.time := by
  simp [applyIngest, LinkId.all]
@[simp] theorem applyIngest_grid (f : List Byte) (s : State) :
    (applyIngest f s).grid = s.grid := by
  simp [applyIngest, LinkId.all]
@[simp] theorem applyIngest_sources (f : List Byte) (s : State) :
    (applyIngest f s).sources = s.sources := by
  simp [applyIngest, LinkId.all]
@[simp] theorem applyIngest_window (f : List Byte) (s : State) :
    (applyIngest f s).window = s.window := by
  simp [applyIngest, LinkId.all]
@[simp] theorem applyIngest_assembler (f : List Byte) (s : State) :
    (applyIngest f s).assembler = s.assembler := by
  simp [applyIngest, LinkId.all]
@[simp] theorem applyIngest_views (f : List Byte) (s : State) :
    (applyIngest f s).views = s.views := by
  simp [applyIngest, LinkId.all]
@[simp] theorem applyIngest_release (f : List Byte) (s : State) :
    (applyIngest f s).release = s.release := by
  simp [applyIngest, LinkId.all]
@[simp] theorem applyIngest_command (f : List Byte) (s : State) :
    (applyIngest f s).command = s.command := by
  simp [applyIngest, LinkId.all]
@[simp] theorem applyIngest_reporting (f : List Byte) (s : State) :
    (applyIngest f s).reporting = s.reporting := by
  simp [applyIngest, LinkId.all]
@[simp] theorem applyIngest_pins (f : List Byte) (s : State) :
    (applyIngest f s).pins = s.pins := by
  simp [applyIngest, LinkId.all]
@[simp] theorem applyIngest_freeCount (f : List Byte) (s : State) :
    (applyIngest f s).freeCount = s.freeCount := by
  simp [applyIngest, LinkId.all]
@[simp] theorem applyIngest_pending (f : List Byte) (s : State) :
    (applyIngest f s).pending = s.pending := by
  simp [applyIngest, LinkId.all]

/-! `clearLinkCounters` changes at most: links. -/
@[simp] theorem clearLinkCounters_time (s : State) :
    (clearLinkCounters s).time = s.time := rfl
@[simp] theorem clearLinkCounters_grid (s : State) :
    (clearLinkCounters s).grid = s.grid := rfl
@[simp] theorem clearLinkCounters_ingest (s : State) :
    (clearLinkCounters s).ingest = s.ingest := rfl
@[simp] theorem clearLinkCounters_sources (s : State) :
    (clearLinkCounters s).sources = s.sources := rfl
@[simp] theorem clearLinkCounters_window (s : State) :
    (clearLinkCounters s).window = s.window := rfl
@[simp] theorem clearLinkCounters_assembler (s : State) :
    (clearLinkCounters s).assembler = s.assembler := rfl
@[simp] theorem clearLinkCounters_views (s : State) :
    (clearLinkCounters s).views = s.views := rfl
@[simp] theorem clearLinkCounters_release (s : State) :
    (clearLinkCounters s).release = s.release := rfl
@[simp] theorem clearLinkCounters_command (s : State) :
    (clearLinkCounters s).command = s.command := rfl
@[simp] theorem clearLinkCounters_reporting (s : State) :
    (clearLinkCounters s).reporting = s.reporting := rfl
@[simp] theorem clearLinkCounters_pins (s : State) :
    (clearLinkCounters s).pins = s.pins := rfl
@[simp] theorem clearLinkCounters_freeCount (s : State) :
    (clearLinkCounters s).freeCount = s.freeCount := rfl
@[simp] theorem clearLinkCounters_pending (s : State) :
    (clearLinkCounters s).pending = s.pending := rfl

/-! `declare` changes at most: sources, assembler, ingest. -/
@[simp] theorem declare_time (f : List Byte) (i : Nat) (s : State) :
    (declare f i s).time = s.time := by simp [declare]
@[simp] theorem declare_grid (f : List Byte) (i : Nat) (s : State) :
    (declare f i s).grid = s.grid := by simp [declare]
@[simp] theorem declare_links (f : List Byte) (i : Nat) (s : State) :
    (declare f i s).links = s.links := by simp [declare]
@[simp] theorem declare_window (f : List Byte) (i : Nat) (s : State) :
    (declare f i s).window = s.window := by simp [declare]
@[simp] theorem declare_views (f : List Byte) (i : Nat) (s : State) :
    (declare f i s).views = s.views := by simp [declare]
@[simp] theorem declare_release (f : List Byte) (i : Nat) (s : State) :
    (declare f i s).release = s.release := by simp [declare]
@[simp] theorem declare_command (f : List Byte) (i : Nat) (s : State) :
    (declare f i s).command = s.command := by simp [declare]
@[simp] theorem declare_reporting (f : List Byte) (i : Nat) (s : State) :
    (declare f i s).reporting = s.reporting := by simp [declare]
@[simp] theorem declare_pins (f : List Byte) (i : Nat) (s : State) :
    (declare f i s).pins = s.pins := by simp [declare]
@[simp] theorem declare_freeCount (f : List Byte) (i : Nat) (s : State) :
    (declare f i s).freeCount = s.freeCount := by simp [declare]
@[simp] theorem declare_pending (f : List Byte) (i : Nat) (s : State) :
    (declare f i s).pending = s.pending := by simp [declare]

/-! `amend` changes at most: views, assembler, window, sources, command, reporting, release. -/
@[simp] theorem amend_time (o : SourceOptions) (i : Nat) (s : State) :
    (amend o i s).time = s.time := by unfold amend; (try try dsimp only); (repeat' split) <;> simp
@[simp] theorem amend_grid (o : SourceOptions) (i : Nat) (s : State) :
    (amend o i s).grid = s.grid := by unfold amend; (try try dsimp only); (repeat' split) <;> simp
@[simp] theorem amend_links (o : SourceOptions) (i : Nat) (s : State) :
    (amend o i s).links = s.links := by unfold amend; (try try dsimp only); (repeat' split) <;> simp
@[simp] theorem amend_ingest (o : SourceOptions) (i : Nat) (s : State) :
    (amend o i s).ingest = s.ingest := by unfold amend; (try try dsimp only); (repeat' split) <;> simp
@[simp] theorem amend_pins (o : SourceOptions) (i : Nat) (s : State) :
    (amend o i s).pins = s.pins := by unfold amend; (try try dsimp only); (repeat' split) <;> simp
@[simp] theorem amend_freeCount (o : SourceOptions) (i : Nat) (s : State) :
    (amend o i s).freeCount = s.freeCount := by unfold amend; (try try dsimp only); (repeat' split) <;> simp
@[simp] theorem amend_pending (o : SourceOptions) (i : Nat) (s : State) :
    (amend o i s).pending = s.pending := by unfold amend; (try try dsimp only); (repeat' split) <;> simp

/-! `retire` changes at most: views, assembler, window, sources, command, reporting, release. -/
@[simp] theorem retire_time (i : Nat) (s : State) :
    (retire i s).time = s.time := by unfold retire; (try dsimp only); (repeat' split) <;> simp
@[simp] theorem retire_grid (i : Nat) (s : State) :
    (retire i s).grid = s.grid := by unfold retire; (try dsimp only); (repeat' split) <;> simp
@[simp] theorem retire_links (i : Nat) (s : State) :
    (retire i s).links = s.links := by unfold retire; (try dsimp only); (repeat' split) <;> simp
@[simp] theorem retire_ingest (i : Nat) (s : State) :
    (retire i s).ingest = s.ingest := by unfold retire; (try dsimp only); (repeat' split) <;> simp
@[simp] theorem retire_pins (i : Nat) (s : State) :
    (retire i s).pins = s.pins := by unfold retire; (try dsimp only); (repeat' split) <;> simp
@[simp] theorem retire_freeCount (i : Nat) (s : State) :
    (retire i s).freeCount = s.freeCount := by unfold retire; (try dsimp only); (repeat' split) <;> simp
@[simp] theorem retire_pending (i : Nat) (s : State) :
    (retire i s).pending = s.pending := by unfold retire; (try dsimp only); (repeat' split) <;> simp

/-! `suspend` changes at most: views, assembler, window, sources, command, reporting, release. -/
@[simp] theorem suspend_time (i : Nat) (s : State) :
    (suspend i s).time = s.time := by unfold suspend; (try dsimp only); (repeat' split) <;> simp
@[simp] theorem suspend_grid (i : Nat) (s : State) :
    (suspend i s).grid = s.grid := by unfold suspend; (try dsimp only); (repeat' split) <;> simp
@[simp] theorem suspend_links (i : Nat) (s : State) :
    (suspend i s).links = s.links := by unfold suspend; (try dsimp only); (repeat' split) <;> simp
@[simp] theorem suspend_ingest (i : Nat) (s : State) :
    (suspend i s).ingest = s.ingest := by unfold suspend; (try dsimp only); (repeat' split) <;> simp
@[simp] theorem suspend_pins (i : Nat) (s : State) :
    (suspend i s).pins = s.pins := by unfold suspend; (try dsimp only); (repeat' split) <;> simp
@[simp] theorem suspend_freeCount (i : Nat) (s : State) :
    (suspend i s).freeCount = s.freeCount := by unfold suspend; (try dsimp only); (repeat' split) <;> simp
@[simp] theorem suspend_pending (i : Nat) (s : State) :
    (suspend i s).pending = s.pending := by unfold suspend; (try dsimp only); (repeat' split) <;> simp

/-! `applySetting` changes at most: release. -/
@[simp] theorem applySetting_time (l : RelId) (n : Nat) (s : State) :
    (applySetting l n s).time = s.time := by unfold applySetting; split <;> simp
@[simp] theorem applySetting_grid (l : RelId) (n : Nat) (s : State) :
    (applySetting l n s).grid = s.grid := by unfold applySetting; split <;> simp
@[simp] theorem applySetting_links (l : RelId) (n : Nat) (s : State) :
    (applySetting l n s).links = s.links := by unfold applySetting; split <;> simp
@[simp] theorem applySetting_ingest (l : RelId) (n : Nat) (s : State) :
    (applySetting l n s).ingest = s.ingest := by unfold applySetting; split <;> simp
@[simp] theorem applySetting_sources (l : RelId) (n : Nat) (s : State) :
    (applySetting l n s).sources = s.sources := by unfold applySetting; split <;> simp
@[simp] theorem applySetting_window (l : RelId) (n : Nat) (s : State) :
    (applySetting l n s).window = s.window := by unfold applySetting; split <;> simp
@[simp] theorem applySetting_assembler (l : RelId) (n : Nat) (s : State) :
    (applySetting l n s).assembler = s.assembler := by unfold applySetting; split <;> simp
@[simp] theorem applySetting_views (l : RelId) (n : Nat) (s : State) :
    (applySetting l n s).views = s.views := by unfold applySetting; split <;> simp
@[simp] theorem applySetting_command (l : RelId) (n : Nat) (s : State) :
    (applySetting l n s).command = s.command := by unfold applySetting; split <;> simp
@[simp] theorem applySetting_reporting (l : RelId) (n : Nat) (s : State) :
    (applySetting l n s).reporting = s.reporting := by unfold applySetting; split <;> simp
@[simp] theorem applySetting_pins (l : RelId) (n : Nat) (s : State) :
    (applySetting l n s).pins = s.pins := by unfold applySetting; split <;> simp
@[simp] theorem applySetting_freeCount (l : RelId) (n : Nat) (s : State) :
    (applySetting l n s).freeCount = s.freeCount := by unfold applySetting; split <;> simp
@[simp] theorem applySetting_pending (l : RelId) (n : Nat) (s : State) :
    (applySetting l n s).pending = s.pending := by unfold applySetting; split <;> simp

/-! `clearQueueCounters` changes at most: release. -/
@[simp] theorem clearQueueCounters_time (s : State) :
    (clearQueueCounters s).time = s.time := rfl
@[simp] theorem clearQueueCounters_grid (s : State) :
    (clearQueueCounters s).grid = s.grid := rfl
@[simp] theorem clearQueueCounters_links (s : State) :
    (clearQueueCounters s).links = s.links := rfl
@[simp] theorem clearQueueCounters_ingest (s : State) :
    (clearQueueCounters s).ingest = s.ingest := rfl
@[simp] theorem clearQueueCounters_sources (s : State) :
    (clearQueueCounters s).sources = s.sources := rfl
@[simp] theorem clearQueueCounters_window (s : State) :
    (clearQueueCounters s).window = s.window := rfl
@[simp] theorem clearQueueCounters_assembler (s : State) :
    (clearQueueCounters s).assembler = s.assembler := rfl
@[simp] theorem clearQueueCounters_views (s : State) :
    (clearQueueCounters s).views = s.views := rfl
@[simp] theorem clearQueueCounters_command (s : State) :
    (clearQueueCounters s).command = s.command := rfl
@[simp] theorem clearQueueCounters_reporting (s : State) :
    (clearQueueCounters s).reporting = s.reporting := rfl
@[simp] theorem clearQueueCounters_pins (s : State) :
    (clearQueueCounters s).pins = s.pins := rfl
@[simp] theorem clearQueueCounters_freeCount (s : State) :
    (clearQueueCounters s).freeCount = s.freeCount := rfl
@[simp] theorem clearQueueCounters_pending (s : State) :
    (clearQueueCounters s).pending = s.pending := rfl

/-! `startPart` changes at most: time, window, reporting. -/
@[simp] theorem startPart_grid (s : State) :
    (startPart s).grid = s.grid := rfl
@[simp] theorem startPart_links (s : State) :
    (startPart s).links = s.links := rfl
@[simp] theorem startPart_ingest (s : State) :
    (startPart s).ingest = s.ingest := rfl
@[simp] theorem startPart_sources (s : State) :
    (startPart s).sources = s.sources := rfl
@[simp] theorem startPart_assembler (s : State) :
    (startPart s).assembler = s.assembler := rfl
@[simp] theorem startPart_views (s : State) :
    (startPart s).views = s.views := rfl
@[simp] theorem startPart_release (s : State) :
    (startPart s).release = s.release := rfl
@[simp] theorem startPart_command (s : State) :
    (startPart s).command = s.command := rfl
@[simp] theorem startPart_pins (s : State) :
    (startPart s).pins = s.pins := rfl
@[simp] theorem startPart_freeCount (s : State) :
    (startPart s).freeCount = s.freeCount := rfl
@[simp] theorem startPart_pending (s : State) :
    (startPart s).pending = s.pending := rfl

/-! `stopPart` changes at most: views, assembler, window, sources, command, reporting, release, time. -/
@[simp] theorem stopPart_grid (s : State) :
    (stopPart s).grid = s.grid := by simp [stopPart]
@[simp] theorem stopPart_links (s : State) :
    (stopPart s).links = s.links := by simp [stopPart]
@[simp] theorem stopPart_ingest (s : State) :
    (stopPart s).ingest = s.ingest := by simp [stopPart]
@[simp] theorem stopPart_pins (s : State) :
    (stopPart s).pins = s.pins := by simp [stopPart]
@[simp] theorem stopPart_freeCount (s : State) :
    (stopPart s).freeCount = s.freeCount := by simp [stopPart]
@[simp] theorem stopPart_pending (s : State) :
    (stopPart s).pending = s.pending := by simp [stopPart]

/-! `resetEntry` changes at most: sources. -/
@[simp] theorem resetEntry_time (s : State) (i : Nat) :
    (resetEntry s i).time = s.time := rfl
@[simp] theorem resetEntry_grid (s : State) (i : Nat) :
    (resetEntry s i).grid = s.grid := rfl
@[simp] theorem resetEntry_links (s : State) (i : Nat) :
    (resetEntry s i).links = s.links := rfl
@[simp] theorem resetEntry_ingest (s : State) (i : Nat) :
    (resetEntry s i).ingest = s.ingest := rfl
@[simp] theorem resetEntry_window (s : State) (i : Nat) :
    (resetEntry s i).window = s.window := rfl
@[simp] theorem resetEntry_assembler (s : State) (i : Nat) :
    (resetEntry s i).assembler = s.assembler := rfl
@[simp] theorem resetEntry_views (s : State) (i : Nat) :
    (resetEntry s i).views = s.views := rfl
@[simp] theorem resetEntry_release (s : State) (i : Nat) :
    (resetEntry s i).release = s.release := rfl
@[simp] theorem resetEntry_command (s : State) (i : Nat) :
    (resetEntry s i).command = s.command := rfl
@[simp] theorem resetEntry_reporting (s : State) (i : Nat) :
    (resetEntry s i).reporting = s.reporting := rfl
@[simp] theorem resetEntry_pins (s : State) (i : Nat) :
    (resetEntry s i).pins = s.pins := rfl
@[simp] theorem resetEntry_freeCount (s : State) (i : Nat) :
    (resetEntry s i).freeCount = s.freeCount := rfl
@[simp] theorem resetEntry_pending (s : State) (i : Nat) :
    (resetEntry s i).pending = s.pending := rfl

/-! `windowReset` changes at most: sources, window, assembler, release. -/
@[simp] theorem windowReset_time (s : State) :
    (windowReset s).time = s.time := by
  unfold windowReset; simp only [flushQueues_time]
  exact foldl_keep (fun a : State => a.time) (fun a i => resetEntry_time a i) _ _
@[simp] theorem windowReset_grid (s : State) :
    (windowReset s).grid = s.grid := by
  unfold windowReset; simp only [flushQueues_grid]
  exact foldl_keep (fun a : State => a.grid) (fun a i => resetEntry_grid a i) _ _
@[simp] theorem windowReset_links (s : State) :
    (windowReset s).links = s.links := by
  unfold windowReset; simp only [flushQueues_links]
  exact foldl_keep (fun a : State => a.links) (fun a i => resetEntry_links a i) _ _
@[simp] theorem windowReset_ingest (s : State) :
    (windowReset s).ingest = s.ingest := by
  unfold windowReset; simp only [flushQueues_ingest]
  exact foldl_keep (fun a : State => a.ingest) (fun a i => resetEntry_ingest a i) _ _
@[simp] theorem windowReset_views (s : State) :
    (windowReset s).views = s.views := by
  unfold windowReset; simp only [flushQueues_views]
  exact foldl_keep (fun a : State => a.views) (fun a i => resetEntry_views a i) _ _
@[simp] theorem windowReset_pins (s : State) :
    (windowReset s).pins = s.pins := by
  unfold windowReset; simp only [flushQueues_pins]
  exact foldl_keep (fun a : State => a.pins) (fun a i => resetEntry_pins a i) _ _
@[simp] theorem windowReset_command (s : State) :
    (windowReset s).command = s.command := by
  unfold windowReset; simp only [flushQueues_command]
  exact foldl_keep (fun a : State => a.command) (fun a i => resetEntry_command a i) _ _
@[simp] theorem windowReset_reporting (s : State) :
    (windowReset s).reporting = s.reporting := by
  unfold windowReset; simp only [flushQueues_reporting]
  exact foldl_keep (fun a : State => a.reporting) (fun a i => resetEntry_reporting a i) _ _
@[simp] theorem windowReset_freeCount (s : State) :
    (windowReset s).freeCount = s.freeCount := by
  unfold windowReset; simp only [flushQueues_freeCount]
  exact foldl_keep (fun a : State => a.freeCount) (fun a i => resetEntry_freeCount a i) _ _
@[simp] theorem windowReset_pending (s : State) :
    (windowReset s).pending = s.pending := by
  unfold windowReset; simp only [flushQueues_pending]
  exact foldl_keep (fun a : State => a.pending) (fun a i => resetEntry_pending a i) _ _

/-! `clearEntry` changes at most: sources. -/
@[simp] theorem clearEntry_time (s : State) (i : Nat) :
    (clearEntry s i).time = s.time := rfl
@[simp] theorem clearEntry_grid (s : State) (i : Nat) :
    (clearEntry s i).grid = s.grid := rfl
@[simp] theorem clearEntry_links (s : State) (i : Nat) :
    (clearEntry s i).links = s.links := rfl
@[simp] theorem clearEntry_ingest (s : State) (i : Nat) :
    (clearEntry s i).ingest = s.ingest := rfl
@[simp] theorem clearEntry_window (s : State) (i : Nat) :
    (clearEntry s i).window = s.window := rfl
@[simp] theorem clearEntry_assembler (s : State) (i : Nat) :
    (clearEntry s i).assembler = s.assembler := rfl
@[simp] theorem clearEntry_views (s : State) (i : Nat) :
    (clearEntry s i).views = s.views := rfl
@[simp] theorem clearEntry_release (s : State) (i : Nat) :
    (clearEntry s i).release = s.release := rfl
@[simp] theorem clearEntry_command (s : State) (i : Nat) :
    (clearEntry s i).command = s.command := rfl
@[simp] theorem clearEntry_reporting (s : State) (i : Nat) :
    (clearEntry s i).reporting = s.reporting := rfl
@[simp] theorem clearEntry_pins (s : State) (i : Nat) :
    (clearEntry s i).pins = s.pins := rfl
@[simp] theorem clearEntry_freeCount (s : State) (i : Nat) :
    (clearEntry s i).freeCount = s.freeCount := rfl
@[simp] theorem clearEntry_pending (s : State) (i : Nat) :
    (clearEntry s i).pending = s.pending := rfl

/-! `clearEntries` changes at most: sources. -/
@[simp] theorem clearEntries_time (l : List Nat) (s : State) :
    (l.foldl clearEntry s).time = s.time := foldl_keep (fun a : State => a.time) (fun a i => clearEntry_time a i) _ _
@[simp] theorem clearEntries_grid (l : List Nat) (s : State) :
    (l.foldl clearEntry s).grid = s.grid := foldl_keep (fun a : State => a.grid) (fun a i => clearEntry_grid a i) _ _
@[simp] theorem clearEntries_links (l : List Nat) (s : State) :
    (l.foldl clearEntry s).links = s.links := foldl_keep (fun a : State => a.links) (fun a i => clearEntry_links a i) _ _
@[simp] theorem clearEntries_ingest (l : List Nat) (s : State) :
    (l.foldl clearEntry s).ingest = s.ingest := foldl_keep (fun a : State => a.ingest) (fun a i => clearEntry_ingest a i) _ _
@[simp] theorem clearEntries_window (l : List Nat) (s : State) :
    (l.foldl clearEntry s).window = s.window := foldl_keep (fun a : State => a.window) (fun a i => clearEntry_window a i) _ _
@[simp] theorem clearEntries_assembler (l : List Nat) (s : State) :
    (l.foldl clearEntry s).assembler = s.assembler := foldl_keep (fun a : State => a.assembler) (fun a i => clearEntry_assembler a i) _ _
@[simp] theorem clearEntries_views (l : List Nat) (s : State) :
    (l.foldl clearEntry s).views = s.views := foldl_keep (fun a : State => a.views) (fun a i => clearEntry_views a i) _ _
@[simp] theorem clearEntries_release (l : List Nat) (s : State) :
    (l.foldl clearEntry s).release = s.release := foldl_keep (fun a : State => a.release) (fun a i => clearEntry_release a i) _ _
@[simp] theorem clearEntries_command (l : List Nat) (s : State) :
    (l.foldl clearEntry s).command = s.command := foldl_keep (fun a : State => a.command) (fun a i => clearEntry_command a i) _ _
@[simp] theorem clearEntries_reporting (l : List Nat) (s : State) :
    (l.foldl clearEntry s).reporting = s.reporting := foldl_keep (fun a : State => a.reporting) (fun a i => clearEntry_reporting a i) _ _
@[simp] theorem clearEntries_pins (l : List Nat) (s : State) :
    (l.foldl clearEntry s).pins = s.pins := foldl_keep (fun a : State => a.pins) (fun a i => clearEntry_pins a i) _ _
@[simp] theorem clearEntries_freeCount (l : List Nat) (s : State) :
    (l.foldl clearEntry s).freeCount = s.freeCount := foldl_keep (fun a : State => a.freeCount) (fun a i => clearEntry_freeCount a i) _ _
@[simp] theorem clearEntries_pending (l : List Nat) (s : State) :
    (l.foldl clearEntry s).pending = s.pending := foldl_keep (fun a : State => a.pending) (fun a i => clearEntry_pending a i) _ _

/-! `zeroCounters` changes at most: links, sources, window, views, release, command, reporting. -/
@[simp] theorem zeroCounters_time (s : State) :
    (zeroCounters s).time = s.time := by
  simp [zeroCounters]
@[simp] theorem zeroCounters_grid (s : State) :
    (zeroCounters s).grid = s.grid := by
  simp [zeroCounters]
@[simp] theorem zeroCounters_ingest (s : State) :
    (zeroCounters s).ingest = s.ingest := by
  simp [zeroCounters]
@[simp] theorem zeroCounters_assembler (s : State) :
    (zeroCounters s).assembler = s.assembler := by
  simp [zeroCounters]
@[simp] theorem zeroCounters_pins (s : State) :
    (zeroCounters s).pins = s.pins := by
  simp [zeroCounters]
@[simp] theorem zeroCounters_freeCount (s : State) :
    (zeroCounters s).freeCount = s.freeCount := by
  simp [zeroCounters]
@[simp] theorem zeroCounters_pending (s : State) :
    (zeroCounters s).pending = s.pending := by
  simp [zeroCounters]

/-! `finishRequest` changes at most: command, reporting, release, freeCount. -/
@[simp] theorem finishRequest_time (r : Request) (st : Status) (b : List Byte) (s : State) :
    (finishRequest r st b s).time = s.time := by simp [finishRequest]
@[simp] theorem finishRequest_grid (r : Request) (st : Status) (b : List Byte) (s : State) :
    (finishRequest r st b s).grid = s.grid := by simp [finishRequest]
@[simp] theorem finishRequest_links (r : Request) (st : Status) (b : List Byte) (s : State) :
    (finishRequest r st b s).links = s.links := by simp [finishRequest]
@[simp] theorem finishRequest_ingest (r : Request) (st : Status) (b : List Byte) (s : State) :
    (finishRequest r st b s).ingest = s.ingest := by simp [finishRequest]
@[simp] theorem finishRequest_sources (r : Request) (st : Status) (b : List Byte) (s : State) :
    (finishRequest r st b s).sources = s.sources := by simp [finishRequest]
@[simp] theorem finishRequest_window (r : Request) (st : Status) (b : List Byte) (s : State) :
    (finishRequest r st b s).window = s.window := by simp [finishRequest]
@[simp] theorem finishRequest_assembler (r : Request) (st : Status) (b : List Byte) (s : State) :
    (finishRequest r st b s).assembler = s.assembler := by simp [finishRequest]
@[simp] theorem finishRequest_views (r : Request) (st : Status) (b : List Byte) (s : State) :
    (finishRequest r st b s).views = s.views := by simp [finishRequest]
@[simp] theorem finishRequest_pins (r : Request) (st : Status) (b : List Byte) (s : State) :
    (finishRequest r st b s).pins = s.pins := by simp [finishRequest]
@[simp] theorem finishRequest_pending (r : Request) (st : Status) (b : List Byte) (s : State) :
    (finishRequest r st b s).pending = s.pending := by simp [finishRequest]

end Sys2Proof.Machine
end

