-- ==== Sys2Proof/Laws/Tables.lean ====
section
/-! SUPPORT. What reading, writing and erasing a table come to, and that each keeps its one form. -/

namespace Sys2Proof.Machine

variable {α : Type}

@[simp] theorem tableFind_erase_self (k : Nat) (t : Table α) : tableFind k (tableErase k t) = none := by
  induction t with
  | nil => rfl
  | cons p t ih =>
    unfold tableErase
    split
    · exact ih
    · rename_i h; simp [tableFind, h, ih]

theorem tableFind_erase_ne {j k : Nat} (h : j ≠ k) (t : Table α) :
    tableFind j (tableErase k t) = tableFind j t := by
  induction t with
  | nil => rfl
  | cons p t ih =>
    unfold tableErase
    split
    · rename_i hk; rw [ih, tableFind, if_neg (fun e => h (e.symm.trans hk))]
    · unfold tableFind; rw [ih]

theorem tableFind_place_self (k : Nat) (v : α) (t : Table α) (h : tableFind k t = none) :
    tableFind k (tablePlace k v t) = some v := by
  induction t with
  | nil => simp [tablePlace, tableFind]
  | cons p t ih =>
    unfold tableFind at h
    split at h
    · exact absurd h (by simp)
    · rename_i hk
      unfold tablePlace
      split
      · simp [tableFind]
      · simp [tableFind, hk, ih h]

theorem tableFind_place_ne {j k : Nat} (h : j ≠ k) (v : α) (t : Table α) :
    tableFind j (tablePlace k v t) = tableFind j t := by
  induction t with
  | nil => simp [tablePlace, tableFind]; omega
  | cons p t ih =>
    unfold tablePlace
    split
    · simp only [tableFind]; rw [if_neg (by omega)]
    · simp only [tableFind, ih]

/-- Reading what was just written. -/
@[simp] theorem tableFind_insert_self (k : Nat) (v : α) (t : Table α) :
    tableFind k (tableInsert k v t) = some v :=
  tableFind_place_self k v _ (tableFind_erase_self k t)

/-- A write leaves every other key alone. -/
theorem tableFind_insert_ne {j k : Nat} (h : j ≠ k) (v : α) (t : Table α) :
    tableFind j (tableInsert k v t) = tableFind j t := by
  rw [tableInsert, tableFind_place_ne h, tableFind_erase_ne h]

theorem tableFind_insert (j k : Nat) (v : α) (t : Table α) :
    tableFind j (tableInsert k v t) = if j = k then some v else tableFind j t := by
  split
  · rename_i h; subst h; simp
  · rename_i h; exact tableFind_insert_ne h v t

theorem tableFind_erase (j k : Nat) (t : Table α) :
    tableFind j (tableErase k t) = if j = k then none else tableFind j t := by
  split
  · rename_i h; subst h; simp
  · rename_i h; exact tableFind_erase_ne h t

theorem tableFind_modify (j k : Nat) (f : α → α) (t : Table α) :
    tableFind j (tableModify k f t) = if j = k then (tableFind k t).map f else tableFind j t := by
  unfold tableModify
  cases h : tableFind k t with
  | none => by_cases hj : j = k <;> simp_all
  | some v => simp only [tableFind_insert]; by_cases hj : j = k <;> simp_all

theorem tableErase_mem {p : Nat × α} {k : Nat} {t : Table α} :
    p ∈ tableErase k t ↔ p ∈ t ∧ p.1 ≠ k := by
  induction t with
  | nil => simp [tableErase]
  | cons q t ih =>
    unfold tableErase
    split
    · rename_i h
      rw [ih, List.mem_cons]
      constructor
      · exact fun ⟨a, b⟩ => ⟨.inr a, b⟩
      · rintro ⟨rfl | a, b⟩
        · exact absurd h b
        · exact ⟨a, b⟩
    · rename_i h
      rw [List.mem_cons, List.mem_cons, ih]
      constructor
      · rintro (rfl | ⟨a, b⟩)
        · exact ⟨.inl rfl, h⟩
        · exact ⟨.inr a, b⟩
      · rintro ⟨rfl | a, b⟩
        · exact .inl rfl
        · exact .inr ⟨a, b⟩

theorem tablePlace_mem {p : Nat × α} {k : Nat} {v : α} {t : Table α} :
    p ∈ tablePlace k v t ↔ p = (k, v) ∨ p ∈ t := by
  induction t with
  | nil => simp [tablePlace]
  | cons q t ih =>
    unfold tablePlace
    split
    · simp
    · simp [ih]; tauto

theorem tableInsert_mem {p : Nat × α} {k : Nat} {v : α} {t : Table α} :
    p ∈ tableInsert k v t ↔ p = (k, v) ∨ (p ∈ t ∧ p.1 ≠ k) := by
  rw [tableInsert, tablePlace_mem, tableErase_mem]

theorem tableErase_of_none {k : Nat} {t : Table α} (h : tableFind k t = none) :
    tableErase k t = t := by
  induction t with
  | nil => rfl
  | cons q t ih =>
    unfold tableFind at h
    split at h
    · exact absurd h (by simp)
    · rename_i hk; unfold tableErase; rw [if_neg hk, ih h]

theorem tableErase_place (k : Nat) (v : α) (t : Table α) :
    tableErase k (tablePlace k v t) = tableErase k t := by
  induction t with
  | nil => simp [tablePlace, tableErase]
  | cons q t ih =>
    unfold tablePlace
    split
    · rw [tableErase, if_pos rfl]
    · rw [tableErase, tableErase, ih]

/-- Writing an item twice is writing it once. -/
@[simp] theorem tableInsert_insert (k : Nat) (v w : α) (t : Table α) :
    tableInsert k v (tableInsert k w t) = tableInsert k v t := by
  rw [tableInsert, tableInsert, tableErase_place,
    tableErase_of_none (tableFind_erase_self k t), tableInsert]

/-- Erasing an item just written is erasing what was there. -/
@[simp] theorem tableErase_insert (k : Nat) (w : α) (t : Table α) :
    tableErase k (tableInsert k w t) = tableErase k t := by
  rw [tableInsert, tableErase_place, tableErase_of_none (tableFind_erase_self k t)]

theorem tableErase_length_le (k : Nat) (t : Table α) : (tableErase k t).length ≤ t.length := by
  induction t with
  | nil => simp [tableErase]
  | cons q t ih => unfold tableErase; split <;> simp <;> omega

theorem tableErase_length_lt {k : Nat} {t : Table α} {v : α} (h : tableFind k t = some v) :
    (tableErase k t).length < t.length := by
  induction t with
  | nil => simp [tableFind] at h
  | cons q t ih =>
    unfold tableFind at h
    unfold tableErase
    have := tableErase_length_le k t
    split at h
    · rename_i hk; rw [if_pos hk, List.length_cons]; omega
    · rename_i hk; rw [if_neg hk, List.length_cons, List.length_cons]; have := ih h; omega

@[simp] theorem tablePlace_length (k : Nat) (v : α) (t : Table α) :
    (tablePlace k v t).length = t.length + 1 := by
  induction t with
  | nil => rfl
  | cons q t ih => unfold tablePlace; split <;> simp [ih]

theorem tableInsert_length_le (k : Nat) (v : α) (t : Table α) :
    (tableInsert k v t).length ≤ t.length + 1 := by
  rw [tableInsert, tablePlace_length]; have := tableErase_length_le k t; omega

theorem tableInsert_length_of_some {k : Nat} {v w : α} {t : Table α} (h : tableFind k t = some w) :
    (tableInsert k v t).length ≤ t.length := by
  rw [tableInsert, tablePlace_length]; have := tableErase_length_lt h; omega

theorem tableInsert_length_of_none {k : Nat} {v : α} {t : Table α} (h : tableFind k t = none) :
    (tableInsert k v t).length = t.length + 1 := by
  rw [tableInsert, tablePlace_length, tableErase_of_none h]

theorem tableErase_sorted {k : Nat} {t : Table α} (h : tableSorted t) : tableSorted (tableErase k t) := by
  induction t with
  | nil => exact h
  | cons q t ih =>
    rw [tableSorted, List.map_cons, List.pairwise_cons] at h
    unfold tableErase
    split
    · exact ih h.2
    · rw [tableSorted, List.map_cons, List.pairwise_cons]
      refine ⟨fun j hj => ?_, ih h.2⟩
      obtain ⟨p, hp, rfl⟩ := List.mem_map.mp hj
      exact h.1 _ (List.mem_map_of_mem (tableErase_mem.mp hp).1)

theorem tablePlace_sorted {k : Nat} {v : α} {t : Table α} (h : tableSorted t)
    (hk : ∀ p ∈ t, p.1 ≠ k) : tableSorted (tablePlace k v t) := by
  induction t with
  | nil => simp [tablePlace, tableSorted]
  | cons q t ih =>
    have h' := h
    rw [tableSorted, List.map_cons, List.pairwise_cons] at h
    unfold tablePlace
    split
    · rename_i hlt
      rw [tableSorted, List.map_cons, List.pairwise_cons]
      refine ⟨fun j hj => ?_, h'⟩
      rw [List.map_cons, List.mem_cons] at hj
      rcases hj with rfl | hj
      · exact hlt
      · exact lt_trans hlt (h.1 j hj)
    · rename_i hlt
      rw [tableSorted, List.map_cons, List.pairwise_cons]
      refine ⟨fun j hj => ?_, ih h.2 fun p hp => hk p (List.mem_cons_of_mem _ hp)⟩
      obtain ⟨p, hp, rfl⟩ := List.mem_map.mp hj
      rcases tablePlace_mem.mp hp with rfl | hp
      · have := hk q List.mem_cons_self; simp only; omega
      · exact h.1 _ (List.mem_map_of_mem hp)

/-- A write keeps the one form of a table. -/
theorem tableInsert_sorted {k : Nat} {v : α} {t : Table α} (h : tableSorted t) :
    tableSorted (tableInsert k v t) :=
  tablePlace_sorted (tableErase_sorted h) fun _ hp => (tableErase_mem.mp hp).2

theorem tableModify_sorted {k : Nat} {f : α → α} {t : Table α} (h : tableSorted t) :
    tableSorted (tableModify k f t) := by
  unfold tableModify; split
  · exact tableInsert_sorted h
  · exact h

/-- In a sorted table an item stands where it is found. -/
theorem tableFind_of_mem {t : Table α} (h : tableSorted t) {k : Nat} {v : α} (hm : (k, v) ∈ t) :
    tableFind k t = some v := by
  induction t with
  | nil => simp at hm
  | cons q t ih =>
    rw [tableSorted, List.map_cons, List.pairwise_cons] at h
    unfold tableFind
    rcases List.mem_cons.mp hm with rfl | hm
    · simp
    · have := h.1 k (List.mem_map_of_mem (f := (·.1)) hm)
      rw [if_neg (by omega), ih h.2 hm]

theorem mem_of_tableFind {t : Table α} {k : Nat} {v : α} (h : tableFind k t = some v) :
    (k, v) ∈ t := by
  induction t with
  | nil => simp [tableFind] at h
  | cons q t ih =>
    unfold tableFind at h
    split at h
    · rename_i hk; obtain ⟨a, b⟩ := q; simp_all
    · exact List.mem_cons_of_mem _ (ih h)

/-- Reading an entry that was just written. -/
@[simp] theorem State.entry_setEntry_self (s : State) (i : Nat) (e : Entry) :
    (s.setEntry i e).entry i = e := by
  unfold State.entry State.setEntry; dsimp only
  split
  · rename_i h; simp [h]
  · simp

/-- Writing an entry leaves every other entry alone. -/
theorem State.entry_setEntry_ne (s : State) {i j : Nat} (h : j ≠ i) (e : Entry) :
    (s.setEntry i e).entry j = s.entry j := by
  unfold State.entry State.setEntry; dsimp only
  split
  · rw [tableFind_erase_ne h]
  · rw [tableFind_insert_ne h]

theorem State.entry_setEntry (s : State) (i j : Nat) (e : Entry) :
    (s.setEntry i e).entry j = if j = i then e else s.entry j := by
  split
  · rename_i h; subst h; simp
  · rename_i h; exact s.entry_setEntry_ne h e

@[simp] theorem State.link_modifyLink_self (s : State) (l : LinkId) (g : IngestLink → IngestLink) :
    (s.modifyLink l g).link l = g (s.link l) := by cases l <;> rfl

theorem State.link_modifyLink_ne (s : State) {l m : LinkId} (h : m ≠ l) (g : IngestLink → IngestLink) :
    (s.modifyLink l g).link m = s.link m := by cases l <;> cases m <;> first | rfl | exact absurd rfl h

@[simp] theorem State.view_modifyView_self (s : State) (v : ViewId) (g : View → View) :
    (s.modifyView v g).view v = g (s.view v) := by cases v <;> rfl

theorem State.view_modifyView_ne (s : State) {v w : ViewId} (h : w ≠ v) (g : View → View) :
    (s.modifyView v g).view w = s.view w := by cases v <;> cases w <;> first | rfl | exact absurd rfl h

@[simp] theorem State.queue_modifyQueue_self (s : State) (d : Destination) (g : ReleaseQueue → ReleaseQueue) :
    (s.modifyQueue d g).release.queue d = g (s.release.queue d) := by cases d <;> rfl

theorem State.queue_modifyQueue_ne (s : State) {d e : Destination} (h : e ≠ d)
    (g : ReleaseQueue → ReleaseQueue) : (s.modifyQueue d g).release.queue e = s.release.queue e := by
  cases d <;> cases e <;> first | rfl | exact absurd rfl h

end Sys2Proof.Machine
end

