-- ==== Sys2Proof/Laws/Execution.lean ====
section
/-! SUPPORT. What executing a request comes to: a property of states that the ends of an execution keep
(the reply, the drain) is kept by every request whose effect keeps it. -/

namespace Sys2Proof.Machine

/-- The effect an execution has, if it has one, leaves a property of states true. -/
def Execution.Keeps (P : State → Prop) : Execution → Prop
  | .refuse _ | .reset => True
  | .accept s _ | .drain s => P s

theorem checks_keeps {P : State → Prop} {length state fields : Bool} {owner : Execution}
    (h : owner.Keeps P) : (checks length state fields owner).Keeps P := by
  unfold checks; (repeat' split) <;> first | exact h | trivial

theorem onSource_keeps {P : State → Prop} {f : List Byte} {s : State} {k : Nat → Execution}
    (h : ∀ i, (k i).Keeps P) : (onSource f s k).Keeps P := by
  unfold onSource; split
  · exact h _
  · trivial

theorem onView_keeps {P : State → Prop} {f : List Byte} {k : ViewId → Execution}
    (h : ∀ v, (k v).Keeps P) : (onView f k).Keeps P := by
  unfold onView; split
  · exact h _
  · trivial

/-- If every effect gives `P`, and the ends of an execution turn `P` into `Q`, the command of a request
gives `Q`. -/
theorem executeHead_keeps {P Q : State → Prop} {isCode : Nat → Bool}
    {execution : Request → State → Execution} {s : State} (hs : Q s) (hp : P s)
    (hroom : Q (s.withProcessor .awaitingRoom))
    (heffect : ∀ r, (execution r (s.withProcessor .executing)).Keeps P)
    (hfinish : ∀ r st b t, s.command.replies.length < Config.replyCapacity → P t →
      Q (finishRequest r st b t))
    (hdrain : ∀ t, P t → Q (transmitChoice (drainEnd (t.withProcessor .awaitingDrain))))
    (hreset : ∀ r, s.command.replies.length < Config.replyCapacity →
      Q (appendReply r (s.withProcessor .awaitingReset))) :
    Q (executeHead isCode execution s) := by
  unfold executeHead
  split
  · rename_i r rest hfree hhead
    split
    · split
      · rename_i hr
        have he := heffect r
        unfold conclude
        cases hx : execution r (s.withProcessor .executing) with
        | refuse st => exact hfinish r st [] s hr hp
        | accept t b => rw [hx] at he; exact hfinish r .ok b t hr he
        | drain t => rw [hx] at he; exact hdrain t he
        | reset => exact hreset _ hr
      · exact hroom
    · exact hs
  · exact hs

/-! ## Executing one request -/

/-- The command of a request that the processor is about to execute concludes its execution (R159). -/
theorem answer_runRequest {s : State} {n r rest} (h : s.Executes n r rest) (f : Request → State →
    Execution) : answer (runRequest n f s) =
    .next (conclude r s (f r (s.withProcessor .executing))) := by
  have := h.room
  simp [answer, runRequest, outOfReset, h.outOfReset, executeHead, h.free, h.head, h.code, this]

/-- A request that passes the checks comes to its owner (R160). -/
theorem checks_pass {a b c : Bool} {o} (h1 : a = true) (h2 : b = true) (h3 : c = true) : checks a b c o = o := by rw [h1, h2, h3]; rfl

/-- A request whose fields fail is refused (R160). -/
theorem checks_badField {a b c : Bool} {o} (h1 : a = true) (h2 : b = true) (h3 : c = false) : checks a b c o = .refuse .badField := by rw [h1, h2, h3]; rfl

/-- Some current or staged descriptor has a property. -/
theorem descriptors_any (s : State) (p : Descriptor →
    Bool) : s.descriptors.any p = true ↔ ∃ v d, ((s.view v).current = some d ∨
          ∃ st, (s.view v).staged = some st ∧ st.content = some d) ∧ p d = true := by
  unfold State.descriptors
  rw [List.any_eq_true]
  constructor
  · rintro ⟨d, hd, hp⟩
    rw [List.mem_flatMap] at hd
    obtain ⟨v, _, hd⟩ := hd
    refine ⟨v, d, ?_, hp⟩
    rw [List.mem_append, Option.mem_toList, Option.mem_toList] at hd
    rcases hd with hd | hd
    · exact .inl hd
    · right
      cases hs : (s.view v).staged with
      | none => rw [hs] at hd; cases hd
      | some st => rw [hs] at hd; exact ⟨st, rfl, hd⟩
  · rintro ⟨v, d, hd, hp⟩
    refine ⟨d, ?_, hp⟩
    rw [List.mem_flatMap]
    refine ⟨v, by cases v <;> simp [ViewId.all], ?_⟩
    rw [List.mem_append, Option.mem_toList, Option.mem_toList]
    rcases hd with hd | ⟨st, h1, h2⟩
    · exact .inl hd
    · right; rw [h1]; exact h2

/-- An entry that is not UNUSED is listed. -/
theorem setEntry_of_used (s : State) (i : Nat) (e : Entry) (h : e.state ≠ .unused) : s.setEntry i e = { s with sources := tableInsert i e s.sources } := by
  unfold State.setEntry; rw [if_neg]; intro hh; rw [hh] at h; exact h rfl

/-- The search of R61 finds the lowest UNUSED entry, or none. -/
theorem firstUnused_lowest (t : Table Entry) (fuel k : Nat) : (firstUnused t fuel k = none ↔
    ∀ i, k ≤ i → i < k + fuel → ((tableFind i t).getD .unused).state ≠ .unused) ∧
   ∀ i, k ≤ i → i < k + fuel → ((tableFind i t).getD .unused).state = .unused → (∀ j, k ≤ j →
       j < i → ((tableFind j t).getD .unused).state ≠ .unused) → firstUnused t fuel k = some i := by
  induction fuel generalizing k with
  | zero => exact ⟨⟨fun _ i h1 h2 => by omega, fun _ => rfl⟩, fun i h1 h2 => by omega⟩
  | succ n ih =>
    unfold firstUnused
    obtain ⟨ih1, ih2⟩ := ih (k+1)
    cases hf : tableFind k t with
    | none =>
      refine ⟨⟨fun h => by simp at h, fun h => ?_⟩, fun i h1 h2 h3 h4 => ?_⟩
      · exact absurd (by rw [hf]; rfl) (h k (le_refl _) (by omega))
      · by_cases e : i = k
        · rw [e]
        · exact absurd (by rw [hf]; rfl) (h4 k (le_refl _) (by omega))
    | some e =>
      dsimp only
      by_cases he : e.state = .unused
      · rw [if_pos he]
        refine ⟨⟨fun h => by simp at h, fun h => ?_⟩, fun i h1 h2 h3 h4 => ?_⟩
        · exact absurd (by rw [hf]; exact he) (h k (le_refl _) (by omega))
        · by_cases e : i = k
          · rw [e]
          · exact absurd (by rw [hf]; exact he) (h4 k (le_refl _) (by omega))
      · rw [if_neg he]
        refine ⟨⟨fun h i h1 h2 => ?_, fun h => ?_⟩, fun i h1 h2 h3 h4 => ?_⟩
        · by_cases e : i = k
          · rw [e, hf]; exact he
          · exact ih1.1 h i (by omega) (by omega)
        · exact ih1.2 fun i h1 h2 => h i (by omega) (by omega)
        · have : i ≠ k := by rintro rfl; rw [hf] at h3; exact he h3
          exact ih2 i (by omega) (by omega) h3 fun j h5 h6 => h4 j (by omega) h6

/-- An identifier is not in the map when no entry that is not UNUSED has it (R56). -/
theorem mappedEntry_none (id : Word16) (t : Table Entry) : mappedEntry id t = none ↔
    ∀ p ∈ t, p.2.state ≠ .unused → p.2.id ≠ id := by
  induction t with
  | nil => simp [mappedEntry]
  | cons p t ih =>
    unfold mappedEntry
    by_cases h : p.2.state ≠ .unused ∧ p.2.id = id
    · rw [if_pos h]; simp only [reduceCtorEq, false_iff]; intro hh; exact hh p List.mem_cons_self h.1 h.2
    · rw [if_neg h, ih]
      simp only [List.mem_cons, forall_eq_or_imp]
      constructor
      · intro hh; exact ⟨fun h1 h2 => h ⟨h1, h2⟩, hh⟩
      · intro hh; exact hh.2

/-- One link's settings change that link alone (R50). -/
theorem applyLink_link (s : State) (f : List Byte) (m l : LinkId) : (applyLink f s l).link m = if m = l then { (s.link l).switch (fieldAt f (linkOffset l) 1 = 1) with
      filterMatch := BitVec.ofNat 16 (fieldAt f (linkOffset l + 1) 2)
      filterMask := BitVec.ofNat 16 (fieldAt f (linkOffset l + 3) 2) } else s.link m := by
  cases l <;> cases m <;> rfl

/-- The settings of all four links (R50). -/
theorem applyLinks_link (s : State) (f : List Byte) (m : LinkId) : (LinkId.all.foldl (applyLink f) s).link m = { (s.link m).switch (fieldAt f (linkOffset m) 1 = 1) with
      filterMatch := BitVec.ofNat 16 (fieldAt f (linkOffset m + 1) 2)
      filterMask := BitVec.ofNat 16 (fieldAt f (linkOffset m + 3) 2) } := by
  simp only [LinkId.all, List.foldl_cons, List.foldl_nil, applyLink_link]
  cases m <;> simp

/-- A change of every listed entry, one after another. -/
theorem foldl_modifyEntry (f : Entry → Entry) (g : State → Nat →
    State) (hg : ∀ s i, g s i = s.modifyEntry i f) (hf : ∀ e, f (f e) = f e)
    (l : List Nat) (s : State) :
   (∀ i, (l.foldl g s).entry i = if i ∈ l then f (s.entry i) else s.entry i) ∧ l.foldl g s = { s with sources := (l.foldl g s).sources } := by
  induction l generalizing s with
  | nil => simp
  | cons a l ih =>
    obtain ⟨h1, h2⟩ := ih (g s a)
    have e : ∀ i, (g s a).entry i = if i = a then f (s.entry i) else s.entry i := by
      intro i; rw [hg, State.modifyEntry, State.entry_setEntry]; split
      · rename_i h; rw [h]
      · rfl
    refine ⟨fun i => ?_, ?_⟩
    · simp only [List.foldl_cons, List.mem_cons]; rw [h1, e]
      by_cases ha : i = a <;> by_cases hl : i ∈ l <;> simp [ha, hl, hf]
    · simp only [List.foldl_cons]; rw [h2, hg]; rfl

theorem entry_of_not_listed (s : State) (i : Nat)
    (h : i ∉ s.sourceIndices) : s.entry i = .unused := by
  unfold State.entry
  cases hf : tableFind i s.sources with
  | none => rfl
  | some v => exact absurd (List.mem_map_of_mem (f := (·.1)) (mem_of_tableFind hf)) h

end Sys2Proof.Machine
end

