-- ==== Sys2Proof/Laws/Queues.lean ====
section
/-! SUPPORT. What the searches of the ordered lists come to: the notice queue, the Unknown Source Log,
the arbiter's choice, the filter; and what the sending side leaves of the request in execution. -/

namespace Sys2Proof.Machine

/-- A counter's increase, in numbers. -/
theorem bump_eq (n : Nat) : bump n = min (n + 1) 4294967295 := rfl

/-! ## The notice queue (R174, R175) -/

/-- A notice is placed behind those of its own or a higher priority. -/
theorem insertNotice_place (n : Notice) (q : List Notice)
    (hs : q.Pairwise (fun a b => b.priority ≤ a.priority)) : ∃ a b, q = a ++ b ∧
    (∀ m ∈ a, n.priority ≤ m.priority) ∧ (∀ m ∈ b, m.priority < n.priority) ∧
    insertNotice n q = a ++ n :: b := by
  induction q with
  | nil => exact ⟨[], [], rfl, by simp, by simp, rfl⟩
  | cons x q ih =>
    rw [List.pairwise_cons] at hs
    by_cases h : n.priority ≤ x.priority
    · obtain ⟨a, b, h1, h2, h3, h4⟩ := ih hs.2
      refine ⟨x :: a, b, by rw [h1]; rfl, ?_, h3, by simp [insertNotice, h, h4]⟩
      intro m hm; rcases List.mem_cons.1 hm with rfl | hm
      · exact h
      · exact h2 m hm
    · refine ⟨[], x :: q, rfl, by simp, ?_, by simp [insertNotice, h]⟩
      intro m hm; rcases List.mem_cons.1 hm with rfl | hm
      · omega
      · have := hs.1 m hm; omega

theorem foldl_min_priority (l : List Notice) (m : Nat) : l.foldl (fun p m => min p m.priority) m ≤ m ∧ (∀ e ∈ l, l.foldl (fun p m => min p m.priority) m ≤ e.priority) ∧ (l.foldl (fun p m => min p m.priority) m = m ∨ ∃ e ∈ l, l.foldl (fun p m => min p m.priority) m = e.priority) := by
  induction l generalizing m with
  | nil => simp
  | cons a l ih =>
    simp only [List.foldl]
    obtain ⟨h1, h2, h3⟩ := ih (min m a.priority)
    refine ⟨by omega, ?_, ?_⟩
    · intro e he; rcases List.mem_cons.1 he with rfl | he
      · omega
      · exact h2 e he
    · rcases h3 with h3 | ⟨e, he, h3⟩
      · rcases Nat.le_total m a.priority with h | h
        · left; omega
        · right; exact ⟨a, List.mem_cons_self, by omega⟩
      · right; exact ⟨e, List.mem_cons_of_mem _ he, h3⟩

/-- The lowest priority is one of a notice, and no notice has a lower one. -/
theorem lowestPriority_least (l : List Notice)
    (h : l ≠ []) : (∀ e ∈ l, lowestPriority l ≤ e.priority) ∧
    ∃ e ∈ l, e.priority = lowestPriority l := by
  cases l with
  | nil => exact absurd rfl h
  | cons a l =>
    obtain ⟨h1, h2, h3⟩ := foldl_min_priority l a.priority
    simp only [lowestPriority]
    refine ⟨?_, ?_⟩
    · intro e he; rcases List.mem_cons.1 he with rfl | he
      · exact h1
      · exact h2 e he
    · rcases h3 with h3 | ⟨e, he, h3⟩
      · exact ⟨a, List.mem_cons_self, h3.symm⟩
      · exact ⟨e, List.mem_cons_of_mem _ he, h3.symm⟩

/-- The earliest of a priority is removed. -/
theorem removeEarliest_first (v : Nat) (l : List Notice)
    (h : ∃ e ∈ l, e.priority = v) : ∃ a o b, l = a ++ o :: b ∧ o.priority = v ∧
    (∀ e ∈ a, e.priority ≠ v) ∧ removeEarliest v l = a ++ b := by
  induction l with
  | nil => simp at h
  | cons x l ih =>
    by_cases hx : x.priority = v
    · exact ⟨[], x, l, rfl, hx, by simp, by simp [removeEarliest, hx]⟩
    · obtain ⟨e, he, hev⟩ := h
      have : e ∈ l := by rcases List.mem_cons.1 he with rfl | he; exact absurd hev hx; exact he
      obtain ⟨a, o, b, h1, h2, h3, h4⟩ := ih ⟨e, this, hev⟩
      refine ⟨x :: a, o, b, by rw [h1]; rfl, h2, ?_, by simp [removeEarliest, hx, h4]⟩
      intro y hy; rcases List.mem_cons.1 hy with rfl | hy
      · exact hx
      · exact h3 y hy

/-- A line that carries a frame chooses nothing (R164). -/
theorem transmitChoice_busy (s : State) (h : s.lineBusy = true) : transmitChoice s = s := by unfold transmitChoice; rw [if_pos h]

/-! ## The Unknown Source Log (R48) -/

theorem foldl_min_firstSeen (l : List LogEntry) (m : Nat) : l.foldl (fun m x => min m x.firstSeen) m ≤ m ∧ (∀ e ∈ l, l.foldl (fun m x => min m x.firstSeen) m ≤ e.firstSeen) ∧ (l.foldl (fun m x => min m x.firstSeen) m = m ∨ ∃ e ∈ l, l.foldl (fun m x => min m x.firstSeen) m = e.firstSeen) := by
  induction l generalizing m with
  | nil => simp
  | cons a l ih =>
    simp only [List.foldl]
    obtain ⟨h1, h2, h3⟩ := ih (min m a.firstSeen)
    refine ⟨by omega, ?_, ?_⟩
    · intro e he; rcases List.mem_cons.1 he with rfl | he
      · omega
      · exact h2 e he
    · rcases h3 with h3 | ⟨e, he, h3⟩
      · rcases Nat.le_total m a.firstSeen with h | h
        · left; omega
        · right; exact ⟨a, List.mem_cons_self, by omega⟩
      · right; exact ⟨e, List.mem_cons_of_mem _ he, h3⟩

/-- The oldest second is one of an entry, and no entry has an older one. -/
theorem oldestSeen_least (l : List LogEntry)
    (h : l ≠ []) : (∀ e ∈ l, oldestSeen l ≤ e.firstSeen) ∧ ∃ e ∈ l, e.firstSeen = oldestSeen l := by
  cases l with
  | nil => exact absurd rfl h
  | cons a l =>
    obtain ⟨h1, h2, h3⟩ := foldl_min_firstSeen l a.firstSeen
    simp only [oldestSeen]
    refine ⟨?_, ?_⟩
    · intro e he; rcases List.mem_cons.1 he with rfl | he
      · exact h1
      · exact h2 e he
    · rcases h3 with h3 | ⟨e, he, h3⟩
      · exact ⟨a, List.mem_cons_self, h3.symm⟩
      · exact ⟨e, List.mem_cons_of_mem _ he, h3.symm⟩

/-- The earliest added entry of a second is removed. -/
theorem removeSeen_first (v : Nat) (l : List LogEntry)
    (h : ∃ e ∈ l, e.firstSeen = v) : ∃ a o b, l = a ++ o :: b ∧ o.firstSeen = v ∧
    (∀ e ∈ a, e.firstSeen ≠ v) ∧ removeSeen v l = a ++ b := by
  induction l with
  | nil => simp at h
  | cons x l ih =>
    by_cases hx : x.firstSeen = v
    · exact ⟨[], x, l, rfl, hx, by simp, by simp [removeSeen, hx]⟩
    · obtain ⟨e, he, hev⟩ := h
      have : e ∈ l := by rcases List.mem_cons.1 he with rfl | he; exact absurd hev hx; exact he
      obtain ⟨a, o, b, h1, h2, h3, h4⟩ := ih ⟨e, this, hev⟩
      refine ⟨x :: a, o, b, by rw [h1]; rfl, h2, ?_, by simp [removeSeen, hx, h4]⟩
      intro y hy; rcases List.mem_cons.1 hy with rfl | hy
      · exact hx
      · exact h3 y hy

/-! ## The filter and the arbiter (R40 to R43) -/

/-- A frame passes when it agrees with the match in every bit of the mask. -/
theorem IngestLink.passes_iff (k : IngestLink) (id : Word16) : k.passes id = true ↔ ∀ i, i < 16 →
    k.filterMask.getLsbD i = true → id.getLsbD i = k.filterMatch.getLsbD i := by
  unfold IngestLink.passes
  rw [decide_eq_true_eq]
  constructor
  · intro h i hi hm
    have := congrArg (fun x => BitVec.getLsbD x i) h
    simp [hm] at this; exact this
  · intro h
    apply BitVec.eq_of_getLsbD_eq
    intro i hi
    have := h i hi
    cases hm : k.filterMask.getLsbD i <;> simp_all

/-- The search from the lowest link. -/
theorem find_lowest_link (p : LinkId →
    Bool) (l : LinkId) : LinkId.all.find? p = some l ↔ p l = true ∧
    ∀ m, p m = true → l.index ≤ m.index := by
  have hall : ∀ P : LinkId → Prop, (∀ m, P m) ↔ P .il0 ∧ P .il1 ∧ P .il2 ∧ P .il3 := by
    intro P; constructor
    · intro h; exact ⟨h _, h _, h _, h _⟩
    · rintro ⟨a, b, c, d⟩ m; cases m <;> assumption
  simp only [LinkId.all, List.find?, hall]
  cases h0 : p .il0 <;> cases h1 : p .il1 <;> cases h2 : p .il2 <;> cases h3 : p .il3 <;> cases l <;> simp [h0, h1, h2, h3, LinkId.index]

/-- The search in cyclic order. -/
theorem find_next_link (p : LinkId →
    Bool) (last l : LinkId) : last.cycleAfter.find? p = some l ↔ p l = true ∧
    ∀ m, p m = true → (l.index + 3 - last.index) % 4 ≤ (m.index + 3 - last.index) % 4 := by
  have hall : ∀ P : LinkId → Prop, (∀ m, P m) ↔ P .il0 ∧ P .il1 ∧ P .il2 ∧ P .il3 := by
    intro P; constructor
    · intro h; exact ⟨h _, h _, h _, h _⟩
    · rintro ⟨a, b, c, d⟩ m; cases m <;> assumption
  cases last <;> simp only [LinkId.cycleAfter, List.find?, hall] <;>
  cases h0 : p .il0 <;> cases h1 : p .il1 <;> cases h2 : p .il2 <;> cases h3 : p .il3 <;> cases l <;> simp [h0, h1, h2, h3, LinkId.index]

/-! ## The request in execution -/

/-- Inside the execution of a request (R159) what the effect brings about leaves the Command Link and the
release side as they are, and the operating state: a notice enters and is not chosen (R165, log 9). -/
def RequestKept (s t : State) : Prop := s.command.processor = .executing →
    t.command = s.command ∧ t.release = s.release ∧ t.reporting.opState = s.reporting.opState

theorem RequestKept.refl (s : State) : RequestKept s s := fun _ => ⟨rfl, rfl, rfl⟩

theorem RequestKept.trans {s t u : State} (a : RequestKept s t) (b : RequestKept t u) : RequestKept s u := fun h => by
  obtain ⟨h1, h2, h3⟩ := a h; obtain ⟨g1, g2, g3⟩ := b (by rw [h1]; exact h)
  exact ⟨g1.trans h1, g2.trans h2, g3.trans h3⟩

theorem RequestKept.of {s t : State} (h1 : t.command = s.command) (h2 : t.release = s.release)
    (h3 : t.reporting.opState = s.reporting.opState) : RequestKept s t := fun _ => ⟨h1, h2, h3⟩

theorem enterNotice_requestKept (n : Notice) (s : State) : RequestKept s (enterNotice n s) := by
  refine .of (by simp) (by simp) ?_
  unfold enterNotice; dsimp only
  (repeat' split) <;> simp [noticeLost, setFlag]

theorem afterNotice_requestKept (s : State) : RequestKept s (afterNotice s) := fun h => by
  unfold afterNotice; rw [if_pos h]; exact ⟨rfl, rfl, rfl⟩

theorem raiseNotice_requestKept (c : NoticeClass) (x : Subject) (d : Nat)
    (s : State) : RequestKept s (raiseNotice c x d s) := by
  unfold raiseNotice; dsimp only; split
  · exact .refl _
  · exact (enterNotice_requestKept _ _).trans (afterNotice_requestKept _)

theorem foldl_requestKept {β : Type} (f : State → β →
    State) (h : ∀ s b, RequestKept s (f s b)) (l : List β) (s : State) : RequestKept s
    (l.foldl f s) := by
  induction l generalizing s with
  | nil => exact .refl _
  | cons b l ih => exact (h s b).trans (ih _)

theorem switchView_requestKept (n : Nat) (s : State) (v : ViewId) : RequestKept s
    (switchView n s v) := by
  unfold switchView
  cases h : (s.view v).staged with
  | none => exact .refl _
  | some st =>
  dsimp only
  split
  case isFalse => exact .refl _
  refine RequestKept.trans (t := s.modifyView v fun w => w.takeEffect st.content) ?_ (raiseNotice_requestKept _ _ _ _); exact .of rfl rfl rfl

theorem visitEntry_requestKept (n : Nat) (c : Table SampleRecord) (a : State × Bool) (i : Nat) : RequestKept a.1 (visitEntry n c a i).1 := by
  unfold visitEntry; dsimp only
  (repeat' split) <;> first | exact .refl _ | (refine RequestKept.trans ?_ (raiseNotice_requestKept _ _ _ _); exact .of (by simp) (by simp) (by simp)) | exact .of (by simp) (by simp) (by simp)

theorem dispositionPass_requestKept (n : Nat) (c : Table SampleRecord)
    (s : State) : RequestKept s (dispositionPass n c s).1 := by
  unfold dispositionPass
  suffices ∀ (l : List Nat) (a : State × Bool), RequestKept a.1
      (l.foldl (visitEntry n c) a).1 from this _ (s, false)
  intro l
  induction l with
  | nil => intro a; exact .refl _
  | cons b l ih => intro a; exact (visitEntry_requestKept n c a b).trans (ih _)

theorem considerViews_requestKept (n : Nat)
    (l : List ViewId) (s : State) : RequestKept s (considerViews n l s) := .of (by simp) (by simp) (by simp)

theorem takeHead_requestKept (n : Nat) (r : List Nat)
    (s : State) : RequestKept s (takeHead n r s).1 := by
  unfold takeHead; dsimp only
  refine RequestKept.trans ?_ (considerViews_requestKept _ _ _)
  refine RequestKept.trans ?_ (dispositionPass_requestKept _ _ _)
  by_cases h : instantIndex s.grid.rate n = 0
  · rw [if_pos h]; refine RequestKept.trans ?_ (foldl_requestKept _ (switchView_requestKept _) _ _); exact .of rfl rfl rfl
  · rw [if_neg h]; exact .of rfl rfl rfl

theorem settle_requestKept (s : State) : RequestKept s (settle s) := by
  refine RequestKept.trans (t := completionWalk s) (RequestKept.of (by simp) (by simp) (by simp)) ?_
  unfold settle takeAndReevaluate; dsimp only
  refine RequestKept.trans (t := (takeIfIdle (completionWalk s)).1) ?_ ?_
  · unfold takeIfIdle; split
    · exact takeHead_requestKept _ _ _
    · exact .refl _
  · split
    · exact .of (by simp) (by simp) (by simp)
    · exact .refl _

end Sys2Proof.Machine
end

