-- ==== Sys2Proof/Laws/Events.lean ====
section
/-! SUPPORT. The execution of requests at once (R159): what an event finds, what it comes to on a part at
rest, and what every such execution keeps. -/

namespace Sys2Proof.Machine

@[simp] theorem withProcessor_time (p : Processor) (s : State) :
    (s.withProcessor p).time = s.time := rfl
@[simp] theorem withProcessor_grid (p : Processor) (s : State) :
    (s.withProcessor p).grid = s.grid := rfl
@[simp] theorem withProcessor_links (p : Processor) (s : State) :
    (s.withProcessor p).links = s.links := rfl
@[simp] theorem withProcessor_ingest (p : Processor) (s : State) :
    (s.withProcessor p).ingest = s.ingest := rfl
@[simp] theorem withProcessor_sources (p : Processor) (s : State) :
    (s.withProcessor p).sources = s.sources := rfl
@[simp] theorem withProcessor_window (p : Processor) (s : State) :
    (s.withProcessor p).window = s.window := rfl
@[simp] theorem withProcessor_assembler (p : Processor) (s : State) :
    (s.withProcessor p).assembler = s.assembler := rfl
@[simp] theorem withProcessor_views (p : Processor) (s : State) :
    (s.withProcessor p).views = s.views := rfl
@[simp] theorem withProcessor_release (p : Processor) (s : State) :
    (s.withProcessor p).release = s.release := rfl
@[simp] theorem withProcessor_reporting (p : Processor) (s : State) :
    (s.withProcessor p).reporting = s.reporting := rfl
@[simp] theorem withProcessor_pins (p : Processor) (s : State) :
    (s.withProcessor p).pins = s.pins := rfl
@[simp] theorem withProcessor_freeCount (p : Processor) (s : State) :
    (s.withProcessor p).freeCount = s.freeCount := rfl
@[simp] theorem withProcessor_pending (p : Processor) (s : State) :
    (s.withProcessor p).pending = s.pending := rfl
@[simp] theorem withProcessor_requests (p : Processor) (s : State) :
    (s.withProcessor p).command.requests = s.command.requests := rfl
@[simp] theorem withProcessor_replies (p : Processor) (s : State) :
    (s.withProcessor p).command.replies = s.command.replies := rfl
@[simp] theorem withProcessor_line (p : Processor) (s : State) :
    (s.withProcessor p).command.line = s.command.line := rfl
@[simp] theorem withProcessor_counters (p : Processor) (s : State) :
    (s.withProcessor p).command.counters = s.command.counters := rfl
@[simp] theorem withProcessor_receiver (p : Processor) (s : State) :
    (s.withProcessor p).command.receiver = s.command.receiver := rfl
@[simp] theorem withProcessor_processor (p : Processor) (s : State) :
    (s.withProcessor p).command.processor = p := rfl
@[simp] theorem withProcessor_withProcessor (p q : Processor) (s : State) :
    (s.withProcessor p).withProcessor q = s.withProcessor q := rfl

/-- The end of an execution makes the processor FREE whatever it was inside it (R159). -/
@[simp] theorem finishRequest_withProcessor (r : Request) (st : Status) (b : List Byte)
    (p : Processor) (s : State) : finishRequest r st b (s.withProcessor p) = finishRequest r st b s :=
  rfl

/-- With no request due an event finds the part as it is. -/
theorem executeDue_of_none {s : State} (h : s.requestDue = false) (k : Nat) :
    executeDue k s = s := by cases k <;> simp [executeDue, h]

theorem atOnce_of_none {s : State} (h : s.requestDue = false) : s.atOnce = s :=
  executeDue_of_none h _

/-- An event of a part at rest does what it does, and nothing else. -/
theorem event_at_rest {s : State} (h : s.AtRest) (f : State → State) :
    event f s = .next (f s) := by
  simp [event, answer, outOfReset, atOnce_of_none h.2, h.1]

/-- What a request is due means (R159). -/
theorem requestDue_iff (s : State) : s.requestDue = true ↔ s.inReset = false ∧
    s.command.processor = .free ∧ s.command.requests ≠ [] := by
  unfold State.requestDue
  cases s.command.requests <;> simp

/-- A property that every execution of a due request keeps holds of what an event finds. -/
theorem atOnce_keeps {Q : State → Prop} {s : State}
    (h : ∀ s, Q s → s.requestDue = true → Q (executeHead (fun _ => true) executionOf s))
    (hs : Q s) : Q s.atOnce := by
  unfold State.atOnce
  generalize s.command.requests.length = k
  induction k generalizing s with
  | zero => exact hs
  | succ k ih =>
    unfold executeDue
    split
    · rename_i hd; exact ih (h s hs hd)
    · exact hs

/-- A property that the idle commands and the executions keep is kept by an event. -/
theorem outOfReset_keeps {P : State → Prop} {f : State → State} {s : State} (h : P s)
    (hf : P (f s)) : P (outOfReset f s) := by unfold outOfReset; split <;> assumption

/-! ## What an effect leaves of the request in execution -/

/-- An effect leaves the request queue as it is, and the processor in execution (R159). -/
def ExecutionKept (s t : State) : Prop := s.command.processor = .executing →
    t.command.processor = .executing ∧ t.command.requests = s.command.requests

theorem ExecutionKept.refl (s : State) : ExecutionKept s s := fun h => ⟨h, rfl⟩

theorem ExecutionKept.trans {s t u : State} (a : ExecutionKept s t) (b : ExecutionKept t u) :
    ExecutionKept s u := fun h => by
  obtain ⟨h1, h2⟩ := a h; obtain ⟨g1, g2⟩ := b h1; exact ⟨g1, g2.trans h2⟩

theorem ExecutionKept.of {s t : State} (h1 : t.command.processor = s.command.processor)
    (h2 : t.command.requests = s.command.requests) : ExecutionKept s t :=
  fun h => ⟨h1.trans h, h2⟩

theorem ExecutionKept.after {s t u : State} (b : ExecutionKept t u)
    (h : t.command = s.command) : ExecutionKept s u := fun g => by
  obtain ⟨h1, h2⟩ := b (by rw [h]; exact g); exact ⟨h1, h2.trans (by rw [h])⟩

theorem RequestKept.kept {s t : State} (h : RequestKept s t) : ExecutionKept s t := fun g => by
  obtain ⟨h1, _, _⟩ := h g; rw [h1]; exact ⟨g, rfl⟩

theorem transmitChoice_executionKept (s : State) : ExecutionKept s (transmitChoice s) := fun h => by
  unfold transmitChoice
  split
  · exact ⟨h, rfl⟩
  split
  · unfold replyPlaceFreed; simp [h]
  · split
    · simp [h]
    · split
      · exact ⟨h, rfl⟩
      · simp [State.modifyQueue, h]

theorem raiseNotice_executionKept (c : NoticeClass) (x : Subject) (d : Nat) (s : State) :
    ExecutionKept s (raiseNotice c x d s) := (raiseNotice_requestKept c x d s).kept

theorem reevaluate_executionKept (s : State) : ExecutionKept s (reevaluate s) := by
  unfold reevaluate; dsimp only
  split
  · exact .after (settle_requestKept _).kept (by simp)
  · exact .of (by simp) (by simp)

theorem enterFreeRun_executionKept (c : TimeCause) (s : State) :
    ExecutionKept s (enterFreeRun c s) :=
  .after (raiseNotice_executionKept _ _ _ _) rfl

theorem missingPps_executionKept (s : State) : ExecutionKept s (missingPps s) := by
  unfold missingPps
  split
  · exact .refl s
  · exact .refl s
  · exact .after (raiseNotice_executionKept _ _ _ _) rfl
  · split
    · exact .of rfl rfl
    · exact enterFreeRun_executionKept _ _

theorem ppsCheck_executionKept (s : State) : ExecutionKept s (ppsCheck s) := by
  unfold ppsCheck; dsimp only
  split
  · exact .of rfl rfl
  · exact .after (missingPps_executionKept _) rfl

theorem setTimeValues_executionKept (c h : Nat) (s : State) :
    ExecutionKept s (setTimeValues c h s) := by
  unfold setTimeValues; dsimp only
  split
  · exact .after (ppsCheck_executionKept _) rfl
  · exact .of rfl rfl

theorem amend_executionKept (o : SourceOptions) (i : Nat) (s : State) :
    ExecutionKept s (amend o i s) := by
  unfold amend; dsimp only
  (repeat' split) <;> first
    | exact .after (.trans (raiseNotice_executionKept _ _ _ _) (reevaluate_executionKept _)) rfl
    | exact .after (reevaluate_executionKept _) rfl
    | exact .of rfl rfl

theorem retire_executionKept (i : Nat) (s : State) : ExecutionKept s (retire i s) := by
  unfold retire; dsimp only
  (repeat' split) <;> first
    | exact .after (reevaluate_executionKept _) rfl
    | exact .of rfl rfl

theorem suspend_executionKept (i : Nat) (s : State) : ExecutionKept s (suspend i s) := by
  unfold suspend; dsimp only
  split
  · exact .after (reevaluate_executionKept _) rfl
  · exact .of rfl rfl

theorem stopPart_executionKept (s : State) : ExecutionKept s (stopPart s) :=
  .after (settle_requestKept _).kept (by simp)

theorem throughBound_executionKept (l : List (Nat × CloseReason)) (s : State) :
    ExecutionKept s (settle (closeAll l s)) :=
  .after (settle_requestKept _).kept (by simp)

theorem windowReset_executionKept (s : State) : ExecutionKept s (windowReset s) :=
  .of (by simp) (by simp)

theorem zeroCounters_executionKept (s : State) : ExecutionKept s (zeroCounters s) := by
  have h := foldl_keep (fun a : State => a.command) (fun a i => clearEntry_command a i)
    s.sourceIndices s
  exact .of (congrArg (·.processor) h) (congrArg (·.requests) h)

/-- The effect of every request leaves the request queue and the processor as they are. -/
theorem executionOf_kept (r : Request) (s : State) :
    (executionOf r s).Keeps (ExecutionKept s) := by
  unfold executionOf
  split
  · exact checks_keeps (.refl _)
  · exact checks_keeps (.refl _)
  · refine checks_keeps ?_; (repeat' split) <;> first | trivial | exact ExecutionKept.of rfl rfl
  · exact checks_keeps (.of rfl rfl)
  · exact checks_keeps (setTimeValues_executionKept _ _ _)
  · refine checks_keeps ?_; split
    · trivial
    · exact ExecutionKept.of rfl rfl
  · refine checks_keeps ?_; (repeat' split) <;> exact ExecutionKept.of (by simp) (by simp)
  · refine checks_keeps ?_; split <;> exact ExecutionKept.of rfl rfl
  · refine checks_keeps ?_; (repeat' split) <;> first
      | trivial
      | exact ExecutionKept.of (by simp [declare]) (by simp [declare])
  · exact checks_keeps (onSource_keeps fun i => amend_executionKept _ _ _)
  · refine checks_keeps (onSource_keeps fun i => ?_); split
    · trivial
    · exact retire_executionKept _ _
  · refine checks_keeps (onSource_keeps fun i => ?_); split
    · exact ExecutionKept.refl _
    · exact suspend_executionKept _ _
  · refine checks_keeps (onSource_keeps fun i => ?_); split
    · exact ExecutionKept.of rfl rfl
    · exact ExecutionKept.refl _
  · refine checks_keeps ?_; split
    · trivial
    · show ExecutionKept _ _
      split <;> exact ExecutionKept.of rfl rfl
  · refine checks_keeps (onView_keeps fun v => ?_)
    (repeat' split) <;> first | trivial | exact ExecutionKept.of rfl rfl
  · refine checks_keeps (onView_keeps fun v => ?_)
    split
    · exact ExecutionKept.of rfl rfl
    · trivial
  · refine checks_keeps (onView_keeps fun v => ?_)
    show ExecutionKept _ _
    split <;> exact ExecutionKept.of rfl rfl
  · exact checks_keeps (ExecutionKept.of (by simp) (by simp))
  · refine checks_keeps ?_
    show ExecutionKept _ _
    split <;> exact ExecutionKept.of rfl rfl
  · refine checks_keeps ?_; split
    · trivial
    · exact ExecutionKept.of rfl rfl
  · exact checks_keeps (stopPart_executionKept _)
  · exact checks_keeps (throughBound_executionKept _ _)
  · refine checks_keeps ?_
    show ExecutionKept _ _
    split <;> exact ExecutionKept.of rfl rfl
  · exact checks_keeps (windowReset_executionKept _)
  · exact checks_keeps trivial
  · exact checks_keeps (zeroCounters_executionKept _)
  · exact checks_keeps (ExecutionKept.of rfl rfl)
  · exact checks_keeps (ExecutionKept.of rfl rfl)
  · trivial

/-! ## One execution of a due request leaves one request fewer, or the processor not FREE -/

/-- The line's choice leaves the requests of a processor that is FREE. -/
theorem transmitChoice_free {s : State} (h : s.command.processor = .free) :
    (transmitChoice s).command.processor = .free ∧
    (transmitChoice s).command.requests = s.command.requests := by
  unfold transmitChoice
  split
  · exact ⟨h, rfl⟩
  split
  · unfold replyPlaceFreed; simp [h]
  · split
    · exact ⟨h, rfl⟩
    · split
      · exact ⟨h, rfl⟩
      · simp [State.modifyQueue, h]

/-- The line's choice leaves a processor that awaits the reset. -/
theorem transmitChoice_awaitingReset {s : State} (h : s.command.processor = .awaitingReset) :
    (transmitChoice s).command.processor = .awaitingReset := by
  unfold transmitChoice
  split
  · exact h
  split
  · unfold replyPlaceFreed; simp [h]
  · split
    · exact h
    · split
      · exact h
      · simp [State.modifyQueue, h]

/-- A processor that awaits the drain is left as it is, or the STOP's reply is made, the STOP leaving the
queue (R161). -/
def DrainKept (s t : State) : Prop := s.command.processor = .awaitingDrain →
    t.command.processor = .awaitingDrain ∧ t.command.requests = s.command.requests ∨
    t.command.processor = .free ∧ t.command.requests = s.command.requests.drop 1

theorem makeStopReply_command (s : State) : (makeStopReply s).command.processor = .free ∧
    (makeStopReply s).command.requests = s.command.requests.drop 1 := by
  unfold makeStopReply; split <;> rename_i h <;> simp [h]

theorem transmitChoice_drainKept (s : State) : DrainKept s (transmitChoice s) := fun h => by
  unfold transmitChoice
  split
  · exact .inl ⟨h, rfl⟩
  split
  · unfold replyPlaceFreed; simp only [h]
    split
    · exact .inl ⟨rfl, rfl⟩
    · exact .inr (makeStopReply_command _)
  · split
    · exact .inl ⟨h, rfl⟩
    · split
      · exact .inl ⟨h, rfl⟩
      · left; simp [State.modifyQueue, h]

theorem drainEnd_drainKept (s : State) : DrainKept s (drainEnd s) := fun h => by
  unfold drainEnd
  split
  · dsimp only; split
    · obtain ⟨h1, h2⟩ := makeStopReply_command
        { s with reporting := { s.reporting with opState := .idle } }
      obtain ⟨g1, g2⟩ := transmitChoice_free h1
      exact .inr ⟨g1, g2.trans h2⟩
    · exact .inl ⟨h, rfl⟩
  · exact .inl ⟨h, rfl⟩

/-- The end of a STOP's execution (R161): the drain may end at once. -/
theorem drain_concludes (s : State) : DrainKept s (transmitChoice (drainEnd s)) := fun h => by
  rcases drainEnd_drainKept s h with ⟨h1, h2⟩ | ⟨h1, h2⟩
  · rw [← h2]; exact transmitChoice_drainKept _ h1
  · obtain ⟨g1, g2⟩ := transmitChoice_free h1
    exact .inr ⟨g1, g2.trans h2⟩

/-- What one execution leaves: the processor waits, or is FREE with one request fewer (R159, R161, R162). -/
theorem executeHead_progress {s : State} (h : s.requestDue = true) :
    ((executeHead (fun _ => true) executionOf s).command.processor ≠ .free ∨
      (executeHead (fun _ => true) executionOf s).command.requests = s.command.requests.drop 1) ∧
    (executeHead (fun _ => true) executionOf s).command.processor ≠ .executing := by
  obtain ⟨_, hf, hr⟩ := (requestDue_iff s).1 h
  obtain ⟨r, rest, hr⟩ := List.exists_cons_of_ne_nil hr
  unfold executeHead
  simp only [hf, hr, if_true]
  split
  · have hk := executionOf_kept r (s.withProcessor .executing)
    have fin : ∀ (st : Status) (b : List Byte) (t : State),
        t.command.requests = s.command.requests →
        (finishRequest r st b t).command.processor = .free ∧
        (finishRequest r st b t).command.requests = s.command.requests.drop 1 := by
      intro st b t ht
      unfold finishRequest appendReply
      obtain ⟨h1, h2⟩ := transmitChoice_free (s := { t with
        freeCount := t.freeCount + 1
        command := { t.command with
          requests := t.command.requests.drop 1, processor := .free
          replies := t.command.replies ++ [⟨r.code, r.tag, st, b⟩] } }) rfl
      exact ⟨h1, h2.trans (by simp [ht])⟩
    unfold conclude
    cases hx : executionOf r (s.withProcessor .executing) with
    | refuse st => obtain ⟨a, b⟩ := fin st [] s rfl; exact ⟨.inr (by rw [b, hr]), by rw [a]; decide⟩
    | accept t b =>
      rw [hx] at hk
      obtain ⟨a, b⟩ := fin .ok b t (hk rfl).2
      exact ⟨.inr (by rw [b, hr]), by rw [a]; decide⟩
    | drain t =>
      rw [hx] at hk
      have ht : t.command.requests = s.command.requests := (hk rfl).2
      rcases drain_concludes (t.withProcessor .awaitingDrain) rfl with ⟨h1, _⟩ | ⟨h1, h2⟩
      · exact ⟨.inl (by rw [h1]; decide), by rw [h1]; decide⟩
      · exact ⟨.inr (h2.trans (by rw [← hr, ← ht]; rfl)), by rw [h1]; decide⟩
    | reset =>
      have := transmitChoice_awaitingReset (s := { s.withProcessor .awaitingReset with command :=
        { (s.withProcessor .awaitingReset).command with
          replies := s.command.replies ++ [⟨r.code, r.tag, .ok, []⟩] } }) rfl
      unfold appendReply
      exact ⟨.inl (by dsimp only; rw [show (s.withProcessor .awaitingReset).command.replies =
        s.command.replies from rfl]; rw [this]; decide), by
        dsimp only; rw [show (s.withProcessor .awaitingReset).command.replies =
        s.command.replies from rfl]; rw [this]; decide⟩
  · exact ⟨.inl (by simp), by simp⟩

/-- As many executions as there are requests are enough: more change nothing. -/
theorem executeDue_enough (k : Nat) (s : State) (h : s.command.requests.length ≤ k) :
    executeDue k s = s.atOnce := by
  induction k using Nat.strongRecOn generalizing s with
  | _ k ih =>
    by_cases hd : s.requestDue = true
    · obtain ⟨_, _, hr⟩ := (requestDue_iff s).1 hd
      obtain ⟨r, rest, hr⟩ := List.exists_cons_of_ne_nil hr
      rw [hr] at h
      obtain ⟨j, rfl⟩ : ∃ j, k = j + 1 := ⟨k - 1, by simp at h; omega⟩
      unfold State.atOnce
      rw [hr]
      simp only [executeDue, hd, if_true, List.length_cons]
      obtain ⟨hp, _⟩ := executeHead_progress hd
      by_cases hu : (executeHead (fun _ => true) executionOf s).requestDue = true
      · rcases hp with hp | hp
        · exact absurd ((requestDue_iff _).1 hu).2.1 hp
        · rw [hr] at hp
          rw [ih j (by omega) _ (by rw [hp]; simp at h ⊢; omega)]
          by_cases e : rest.length = j
          · rw [e]; rw [ih j (by omega) _ (by rw [hp]; simp at h ⊢; omega)]
          · rw [ih rest.length (by simp at h; omega) _ (by rw [hp]; simp)]
      · rw [executeDue_of_none (by simpa using hu), executeDue_of_none (by simpa using hu)]
    · rw [executeDue_of_none (by simpa using hd), atOnce_of_none (by simpa using hd)]

/-- A due request is executed, and then whatever is due after it (R159). -/
theorem atOnce_of_due {s : State} (h : s.requestDue = true) :
    s.atOnce = (executeHead (fun _ => true) executionOf s).atOnce := by
  obtain ⟨_, _, hr⟩ := (requestDue_iff s).1 h
  obtain ⟨r, rest, hr⟩ := List.exists_cons_of_ne_nil hr
  conv => lhs; unfold State.atOnce
  rw [hr]
  simp only [executeDue, h, if_true, List.length_cons]
  obtain ⟨hp, _⟩ := executeHead_progress h
  by_cases hu : (executeHead (fun _ => true) executionOf s).requestDue = true
  · rcases hp with hp | hp
    · exact absurd ((requestDue_iff _).1 hu).2.1 hp
    · rw [executeDue_enough _ _ (by rw [hp, hr]; simp)]
  · rw [executeDue_of_none (by simpa using hu), atOnce_of_none (by simpa using hu)]

/-- What an event finds has no request due (R159). -/
theorem atOnce_requestDue (s : State) : s.atOnce.requestDue = false := by
  suffices ∀ k (s : State), s.command.requests.length ≤ k → s.atOnce.requestDue = false from
    this _ s (le_refl _)
  intro k
  induction k with
  | zero =>
    intro s h
    have : s.requestDue = false := by
      cases hd : s.requestDue with
      | false => rfl
      | true => exact absurd (List.length_eq_zero_iff.1 (by omega)) ((requestDue_iff s).1 hd).2.2
    rw [atOnce_of_none this]; exact this
  | succ k ih =>
    intro s h
    cases hd : s.requestDue with
    | false => rw [atOnce_of_none hd]; exact hd
    | true =>
      rw [atOnce_of_due hd]
      rcases (executeHead_progress hd).1 with hp | hp
      · have : (executeHead (fun _ => true) executionOf s).requestDue = false := by
          cases hu : (executeHead (fun _ => true) executionOf s).requestDue with
          | false => rfl
          | true => exact absurd ((requestDue_iff _).1 hu).2.1 hp
        rw [atOnce_of_none this]; exact this
      · exact ih _ (by rw [hp]; simp; omega)

/-- The row of a due request executes it (R159, R167). -/
theorem exec_requestCommand {s : State} (h : s.requestDue = true) {r : Request}
    {rest : List Request} (hr : s.command.requests = r :: rest) :
    exec (requestCommand r.code) s = .next (executeHead (fun _ => true) executionOf s) := by
  obtain ⟨h0, hf, _⟩ := (requestDue_iff s).1 h
  unfold requestCommand
  split <;> rename_i hc <;>
    simp only [exec, execIdentify, execReadStatus, execConfigureGrid, execConfigureRelease,
      execConfigureTime, execSetSecond, execConfigureIngest, execReadUnknownLog,
      execDeclareSource, execAmendSource, execRetireSource, execSuspendSource,
      execResumeSource, execReadSource, execStageView, execCancelView, execReadView,
      execConfigureReleaseLink, execReadReleaseLinks, execStart, execStop, execReleaseThrough,
      execReadWindow, execResetWindow, execResetDevice, execClearCounters, execClearFaults,
      execSetNotices, execUnknownRequest, runRequest, answer, outOfReset, h0, executeHead, hf, hr,
      hc, executionOf, unknownCode] <;> try simp
  intro h1 h2
  exfalso
  simp only [imp_false] at *
  omega

/-- The command of one code executes the head request or changes nothing. -/
theorem runRequest_cases (code : Nat) (e : Request → State → Execution) (s : State)
    (h : ∀ r, r.code.toNat = code → executionOf r = e r) :
    runRequest code e s = s ∨
      runRequest code e s = executeHead (fun _ => true) executionOf s := by
  unfold runRequest outOfReset
  split
  · exact .inl rfl
  · unfold executeHead
    split
    · rename_i r rest _ _
      dsimp only
      split
      · rename_i hc
        right
        rw [h r (by simpa using hc), if_pos rfl]
      · exact .inl rfl
    · exact .inl rfl

/-- Every request row executes the head request or changes nothing (R159; log 12). -/
theorem exec_requestRow {c : Instr} (h : c ∈ Instr.unknownRequest :: requestRows) (s : State) :
    exec c s = .next s ∨ exec c s = .next (executeHead (fun _ => true) executionOf s) := by
  simp only [requestRows, List.mem_cons, List.not_mem_nil, or_false] at h
  have row : ∀ (code : Nat) (e : Request → State → Execution),
      (∀ r, r.code.toNat = code → executionOf r = e r) →
      answer (runRequest code e s) = .next s ∨
      answer (runRequest code e s) = .next (executeHead (fun _ => true) executionOf s) := by
    intro code e he
    rcases runRequest_cases code e s he with h | h <;> rw [h]
    · exact .inl rfl
    · exact .inr rfl
  rcases h with h | h
  · subst h
    show answer _ = _ ∨ answer _ = _
    unfold outOfReset
    split
    · exact .inl rfl
    · unfold executeHead
      split
      · rename_i r rest _ _
        dsimp only
        split
        · rename_i hc
          right
          rw [if_pos rfl]
          have : executionOf r (s.withProcessor .executing) = .refuse .unknownRequest := by
            unfold executionOf
            simp only [unknownCode, Bool.or_eq_true, decide_eq_true_eq] at hc
            split <;> first | omega | rfl
          rw [this]; rfl
        · exact .inl rfl
      · exact .inl rfl
  · rcases h with h | h | h | h | h | h | h | h | h | h | h | h | h | h | h | h | h | h | h | h | h |
      h | h | h | h | h | h | h <;> subst h <;>
      exact row _ _ fun r hr => by funext s; simp only [executionOf, hr]

/-- A property that every execution of a due request keeps, and an event keeps, holds after the event. -/
theorem event_keeps {Q : State → Prop} {f : State → State} {s : State} (hs : Q s)
    (h : ∀ s, Q s → Q (executeHead (fun _ => true) executionOf s)) (hf : ∀ s, Q s → Q (f s)) :
    ∀ t, event f s = .next t → Q t := by
  intro t ht
  cases ht
  have := atOnce_keeps (fun s hs _ => h s hs) hs
  exact outOfReset_keeps this (hf _ this)

/-! ## What is due -/

/-- When the next missing-PPS check is due (R22, R26). -/
theorem nextCheck_due (t : TimeRef) (now : Nat) : t.nextCheck.any (· ≤ now) = true ↔
    t.checkTaken = false ∧ t.second * 6000000 + t.captureWindow + 1 ≤ now ∨
    t.checkTaken = true ∧ t.second < 4294967295 ∧
      (t.second + 1) * 6000000 + t.captureWindow + 1 ≤ now := by
  have hg : Config.grainsPerSecond = 6000000 := rfl
  have hm : Config.maxSecond = 4294967295 := rfl
  unfold TimeRef.nextCheck
  rw [hg, hm]
  cases t.checkTaken with
  | false =>
    rw [if_neg (by decide), Option.any_some, decide_eq_true_iff]
    exact ⟨fun h => .inl ⟨rfl, h⟩, fun h => h.elim (·.2) fun h => absurd h.1 (by decide)⟩
  | true =>
    rw [if_pos rfl]
    by_cases hl : t.second < 4294967295
    · rw [if_pos hl, Option.any_some, decide_eq_true_iff]
      exact ⟨fun h => .inr ⟨rfl, hl, h⟩, fun h => h.elim (fun h => by simp at h) fun h => h.2.2⟩
    · rw [if_neg hl]
      exact ⟨fun h => by simp at h, fun h => h.elim (fun h => by simp at h) fun h => absurd h.2.1 hl⟩

/-! ## What local time has reached -/

/-- The cadence event of the first instant beyond the mark is due (R28). -/
theorem nextCadence_due (s : State) (now : Nat) :
    (s.nextCadence.any fun n => decide (n * s.grid.period ≤ now)) = true ↔
      s.reporting.opState = .running ∧
        ∃ m, s.time.cadenceMark = some m ∧ (m + 1) * s.grid.period ≤ now := by
  unfold State.nextCadence
  split
  · rename_i h; cases s.time.cadenceMark <;> simp [h]
  · rename_i h; simp [h]

/-- With no request due and nothing reached, nothing is delivered. -/
theorem deliverReached_of_none {s : State} (h : s.requestDue = false) (he : s.reachedEvents = []) :
    deliverReached s = s := by
  unfold deliverReached; rw [atOnce_of_none h, he]; rfl

/-- A property that the executions and the time-driven events keep, and that holds of a state, holds of
that state with what it has reached delivered. -/
theorem deliverReached_keeps {Q : State → Prop}
    (request : ∀ s, Q s → Q (executeHead (fun _ => true) executionOf s))
    (check : ∀ s, Q s → Q (reachCheck s)) (cadence : ∀ s, Q s → Q (reachCadence s))
    (deadline : ∀ n s, Q s → Q (reachDeadline n s)) {s : State} (hs : Q s) :
    Q (deliverReached s) := by
  have once : ∀ {s}, Q s → Q s.atOnce := fun h => atOnce_keeps (fun s hs _ => request s hs) h
  have each : ∀ f ∈ s.atOnce.reachedEvents, ∀ s, Q s → Q (f s) := by
    intro f hf s hs
    simp only [State.reachedEvents, List.mem_append, List.mem_map] at hf
    rcases hf with (hf | hf) | ⟨p, -, rfl⟩
    · split at hf
      · obtain rfl := List.mem_singleton.1 hf; exact check s hs
      · cases hf
    · split at hf
      · obtain rfl := List.mem_singleton.1 hf; exact cadence s hs
      · cases hf
    · exact deadline _ s hs
  unfold deliverReached
  generalize s.atOnce.reachedEvents = l at each
  have h0 : Q s.atOnce := once hs
  generalize s.atOnce = u at h0
  induction l generalizing u with
  | nil => exact h0
  | cons f l ih =>
    exact ih (fun g hg => each g (.tail _ hg)) _
      (outOfReset_keeps (once h0) (each f (.head _) _ (once h0)))

/-- A rising list of instants is known by its members. -/
theorem rising_ext : ∀ {a b : List Nat}, a.Pairwise (· < ·) → b.Pairwise (· < ·) →
    (∀ x, x ∈ a ↔ x ∈ b) → a = b := by
  intro a
  induction a with
  | nil =>
    intro b _ _ h
    cases b with
    | nil => rfl
    | cons y b => exact absurd ((h y).2 (.head _)) (by simp)
  | cons x a ih =>
    intro b ha hb h
    cases b with
    | nil => exact absurd ((h x).1 (.head _)) (by simp)
    | cons y b =>
      rw [List.pairwise_cons] at ha hb
      have hxy : x = y := by
        rcases List.mem_cons.1 ((h x).1 (.head _)) with e | e
        · exact e
        · rcases List.mem_cons.1 ((h y).2 (.head _)) with e' | e'
          · exact e'.symm
          · have := hb.1 x e; have := ha.1 y e'; omega
      subst hxy
      rw [ih ha.2 hb.2 fun z => ?_]
      have := h z
      rw [List.mem_cons, List.mem_cons] at this
      constructor <;> intro hz
      · have := ha.1 z hz; rcases this' : (h z).1 (.tail _ hz) with _ | ⟨_, e⟩
        · omega
        · exact e
      · have := hb.1 z hz; rcases this' : (h z).2 (.tail _ hz) with _ | ⟨_, e⟩
        · omega
        · exact e

/-- The watched slots of a sorted slot map whose deadline local time has reached, oldest first (R29). -/
theorem expired_instants {s : State} (h : tableSorted s.window.slots) (now : Nat) {l : List Nat}
    (hl : l.Pairwise (· < ·))
    (hm : ∀ n, n ∈ l ↔ ∃ slot, s.slot? n = some slot ∧ slot.unclosed = true ∧
      slot.overdue = false ∧ slot.deadline ≤ now) :
    (s.watchedSlots.filter fun p => decide (p.2.deadline ≤ now)).map (·.1) = l := by
  refine rising_ext ?_ hl fun n => ?_
  · exact h.sublist (List.Sublist.map _
      ((List.filter_sublist (l := s.watchedSlots)).trans List.filter_sublist))
  · rw [hm]
    simp only [State.watchedSlots, Slot.watched, List.mem_map, List.mem_filter, Bool.and_eq_true,
      Bool.not_eq_true', decide_eq_true_eq]
    constructor
    · rintro ⟨⟨k, v⟩, ⟨⟨a, b, c⟩, d⟩, rfl⟩; exact ⟨v, tableFind_of_mem h a, b, c, d⟩
    · rintro ⟨v, a, b, c, d⟩; exact ⟨(n, v), ⟨⟨mem_of_tableFind a, b, c⟩, d⟩, rfl⟩

/-- A run of events is the events taken in turn. -/
theorem runCommands_events : ∀ (l : List (Instr × (State → State))) (s : State),
    (∀ p ∈ l, ∀ s, Machine.exec p.1 s = event p.2 s) →
    runCommands (l.map (·.1)) s =
      .next ((l.map (·.2)).foldl (fun t f => outOfReset f t.atOnce) s)
  | [], _, _ => rfl
  | p :: l, s, h => by
    rw [List.map_cons, List.map_cons, List.foldl_cons, runCommands, h p (.head _)]
    exact runCommands_events l _ fun q hq => h q (.tail _ hq)

/-- What `Delivers` says is what the part delivers (R22, R28, R29): on a part at rest, of one state. -/
theorem delivers_iff {s : State} (h : tableSorted s.window.slots) (u : State) :
    s.Delivers u ↔ u = s.reachedEvents.foldl (fun t f => outOfReset f t.atOnce) s := by
  let now := s.time.second * 6000000 + s.time.fraction
  let a : List (Instr × (State → State)) :=
    if s.time.nextCheck.any (· ≤ now) then [(.missingPpsCheck, reachCheck)] else []
  let b : List (Instr × (State → State)) :=
    if s.nextCadence.any fun n => decide (n * s.grid.period ≤ now) then
      [(.cadenceEvent, reachCadence)] else []
  let e := (s.watchedSlots.filter fun p => decide (p.2.deadline ≤ now)).map (·.1)
  let l := a ++ b ++ e.map fun n => (Instr.deadlineExpiry n, reachDeadline n)
  have a1 := fun x => (if_pos ((nextCheck_due s.time now).2 x) : a = [(.missingPpsCheck, reachCheck)])
  have a0 := fun x => (if_neg (mt (nextCheck_due s.time now).1 x) : a = [])
  have b1 := fun x => (if_pos ((nextCadence_due s now).2 x) : b = [(.cadenceEvent, reachCadence)])
  have b0 := fun x => (if_neg (mt (nextCadence_due s now).1 x) : b = [])
  have hf : l.map (·.2) = s.reachedEvents := by
    simp only [l, a, b, e, List.map_append, List.map_map, State.reachedEvents]
    congr 1
    congr 1
    · exact (apply_ite (List.map _) _ _ _).trans rfl
    · exact (apply_ite (List.map _) _ _ _).trans rfl
  have hex : ∀ p ∈ l, ∀ s, Machine.exec p.1 s = event p.2 s := by
    intro p hp t
    simp only [l, List.mem_append, List.mem_map] at hp
    rcases hp with (hp | hp) | ⟨n, -, rfl⟩
    · simp only [a] at hp; split at hp
      · obtain rfl := List.mem_singleton.1 hp; rfl
      · cases hp
    · simp only [b] at hp; split at hp
      · obtain rfl := List.mem_singleton.1 hp; rfl
      · cases hp
    · rfl
  have run : runCommands (l.map (·.1)) s =
      .next (s.reachedEvents.foldl (fun t f => outOfReset f t.atOnce) s) := by
    rw [runCommands_events l s hex, hf]
  constructor
  · rintro ⟨_, check, cadence, checks, cadences, expired, rfl, hc, hd, c1, c0, d1, d0, hs, hm, hr⟩
    have ha : a.map (·.1) = checks := by
      by_cases hh : check
      · rw [c1 hh]; exact congrArg (List.map (·.1)) (a1 (hc.1 hh))
      · rw [c0 hh]; exact congrArg (List.map (·.1)) (a0 (mt hc.2 hh))
    have hb : b.map (·.1) = cadences := by
      by_cases hh : cadence
      · rw [d1 hh]; exact congrArg (List.map (·.1)) (b1 (hd.1 hh))
      · rw [d0 hh]; exact congrArg (List.map (·.1)) (b0 (mt hd.2 hh))
    have he : e = expired := expired_instants h _ hs hm
    have : l.map (·.1) = checks ++ cadences ++ expired.map Instr.deadlineExpiry := by
      simp only [l, List.map_append, List.map_map, ha, hb, he]; rfl
    rw [← this, run] at hr
    exact ((Host.Outcome.next.inj hr).symm)
  · rintro rfl
    refine ⟨_, _, _, a.map (·.1), b.map (·.1), e, rfl, Iff.rfl, Iff.rfl,
      fun x => congrArg (List.map (·.1)) (a1 x), fun x => congrArg (List.map (·.1)) (a0 x),
      fun x => congrArg (List.map (·.1)) (b1 x), fun x => congrArg (List.map (·.1)) (b0 x), ?_,
      fun n => ?_, ?_⟩
    · exact h.sublist (List.Sublist.map _
        ((List.filter_sublist (l := s.watchedSlots)).trans List.filter_sublist))
    · simp only [e, State.watchedSlots, Slot.watched, List.mem_map, List.mem_filter,
        Bool.and_eq_true, Bool.not_eq_true', decide_eq_true_eq]
      constructor
      · rintro ⟨⟨k, v⟩, ⟨⟨a, b, c⟩, d⟩, rfl⟩; exact ⟨v, tableFind_of_mem h a, b, c, d⟩
      · rintro ⟨v, a, b, c, d⟩; exact ⟨(n, v), ⟨⟨mem_of_tableFind a, b, c⟩, d⟩, rfl⟩
    · have : l.map (·.1) = a.map (·.1) ++ b.map (·.1) ++ e.map Instr.deadlineExpiry := by
        simp only [l, List.map_append, List.map_map]; rfl
      rw [← this, run]

/-- The edge finds the part with what local time has reached delivered (R28, R29). -/
theorem exec_ppsEdge {s u : State} (hs : s.AtRest) (h : tableSorted s.window.slots)
    (hd : s.Delivers u) (hu : u.AtRest) : Machine.exec .ppsEdge s = .next (ppsEdge u) := by
  have : deliverReached s = u := by
    rw [(delivers_iff h u).1 hd, deliverReached, atOnce_of_none hs.2]
  show event ppsEdge (deliverReached s) = _
  rw [this, event_at_rest hu]

/-- What the expiry of an opened slot can do (R29): it is that of DEADLINE_EXPIRY, or none. -/
theorem expireOpened_spec (n : Nat) (s : State) :
    (∀ slot, s.AtRest → s.slot? n = some slot → slot.watched = true → s.time.stopped = false →
      slot.deadline ≤ s.time.grains →
      Machine.exec (.deadlineExpiry n) s = .next (expireOpened n s)) ∧
    ((∀ slot, s.slot? n = some slot → slot.watched = false ∨ s.time.stopped = true ∨
        s.time.grains < slot.deadline) → expireOpened n s = s) := by
  constructor
  · intro slot hr hs hw ht hd
    show event (reachDeadline n) s = _
    rw [event_at_rest hr]
    simp [reachDeadline, expireOpened, hs, hw, ht, hd, whenReached, State.reaches, advanceTo]
  · intro h
    unfold expireOpened
    split
    · rename_i slot hs
      rw [if_neg]
      rcases h slot hs with h | h | h <;> simp [h]
    · rfl

/-! ## What every command keeps -/

/-- What an operation of the part keeps, one hypothesis for each: then every command keeps it. -/
structure OperationsKeep (Q : State → Prop) : Prop where
  reset : ∀ s p, Q s → Q { deviceReset s with pins := p }
  pins : ∀ s p, Q s → Q { s with pins := p }
  request : ∀ s, Q s → Q (executeHead (fun _ => true) executionOf s)
  ppsEdge : ∀ s, Q s → Q (ppsEdge s)
  check : ∀ s, Q s → Q (reachCheck s)
  lastGrain : ∀ s, Q s → Q (reachLastGrain s)
  cadence : ∀ s, Q s → Q (reachCadence s)
  deadline : ∀ n s, Q s → Q (reachDeadline n s)
  ingestByte : ∀ l b s, Q s → Q (ingestByte l b s)
  placement : ∀ s, Q s → Q (placementStep s)
  description : ∀ s, Q s → Q (descriptionHandling s)
  handOver : ∀ s, Q s → Q (handOverSet s)
  assemblyEnd : ∀ s, Q s → Q (assemblyEnd s)
  transmissionEnd : ∀ l s, Q s → Q (transmissionEnd l s)
  look : ∀ l s, Q s → Q (lookAtBusy l s)
  inhibit : ∀ s, Q s → Q (inhibitQueues s)
  commandByte : ∀ b s, Q s → Q (commandByte b s)
  transmitted : ∀ s, Q s → Q (commandTransmissionEnd s)

/-- Every command keeps what the operations keep. -/
theorem OperationsKeep.exec {Q : State → Prop} (h : OperationsKeep Q) {c : Instr} {s t : State}
    (hs : Q s) (ht : exec c s = .next t) : Q t := by
  have ev : ∀ {f : State → State}, (∀ s, Q s → Q (f s)) → event f s = .next t → Q t :=
    fun hf ht => event_keeps hs h.request hf t ht
  have rest : Q s.atOnce := atOnce_keeps (fun s hs _ => h.request s hs) hs
  have row : c ∈ Instr.unknownRequest :: requestRows → Q t := by
    intro hc
    rcases exec_requestRow hc s with e | e <;> rw [e] at ht <;> cases ht
    · exact hs
    · exact h.request s hs
  have whole : ∀ {P : Prop} [Decidable P] {u v : State}, Q u → Q v → Q (if P then u else v) := by
    intro P _ u v hu hv; split <;> assumption
  cases c with
  | powerOn => cases ht; exact h.reset s _ hs
  | resetnAssert => cases ht; exact h.reset s _ hs
  | resetEnd => cases ht; exact whole (h.reset s _ hs) hs
  | ppsEdge =>
    exact event_keeps (deliverReached_keeps h.request h.check h.cadence h.deadline hs) h.request
      h.ppsEdge t ht
  | missingPpsCheck => exact ev h.check ht
  | localTimeStop => exact ev h.lastGrain ht
  | cadenceEvent => exact ev h.cadence ht
  | deadlineExpiry n => exact ev (h.deadline n) ht
  | ingestByte l b => exact ev (h.ingestByte l b) ht
  | ingestFrame l b => exact ev (fun s hs => whole (h.ingestByte l b s hs) hs) ht
  | placementStep => exact ev h.placement ht
  | descriptionHandling => exact ev h.description ht
  | setHandover => exact ev h.handOver ht
  | assemblyEnd => exact ev h.assemblyEnd ht
  | transmissionEnd l => exact ev (h.transmissionEnd l) ht
  | clByte b => exact ev (h.commandByte b) ht
  | requestFrame b => exact ev (fun s hs => whole (h.commandByte b s hs) hs) ht
  | clTransmissionEnd => exact ev h.transmitted ht
  | busyAssert l => cases ht; cases l <;> exact h.pins _ _ rest
  | busyDeassert l =>
    cases ht
    have := h.pins s.atOnce (s.atOnce.setBusy l false).pins rest
    have : Q (s.atOnce.setBusy l false) := by cases l <;> exact this
    exact outOfReset_keeps this (whole (h.look l _ this) this)
  | inhibitAssert =>
    cases ht
    exact outOfReset_keeps (h.pins _ _ rest) (h.inhibit _ (h.pins _ _ rest))
  | inhibitDeassert => cases ht; exact h.pins _ _ rest
  | unknownRequest => exact row (by simp)
  | _ => exact row (by simp [requestRows])

/-- Every step keeps what the operations, the queue of waiting commands and a grain of local time keep. -/
theorem OperationsKeep.step {Q : State → Prop} (h : OperationsKeep Q)
    (hp : ∀ s l, Q s → Q { s with pending := l }) (htick : ∀ s, Q s → Q (tick s)) :
    ∀ s t, Q s → step s = .next t → Q t := by
  intro s t hs ht
  unfold Machine.step at ht
  split at ht
  · unfold idle at ht
    split at ht
    · exact h.exec hs ht
    · cases ht; exact htick s hs
  · exact h.exec (hp s _ hs) ht

end Sys2Proof.Machine
end

