-- ==== Sys2Proof/Laws/Layouts.lean ====
section
/-! SUPPORT. The bodies the part builds, as a host reads them: each writer of Operands carries the field it
writes, and what is written one after another is read one after another (R186). -/

namespace Sys2Proof.Machine

/-! ## The bytes of a number -/

@[simp] theorem leBytes_length (w n : Nat) : (leBytes w n).length = w := by
  induction w generalizing n with
  | zero => rfl
  | succ w ih => simp [leBytes, ih]

@[simp] theorem beBytes_length (w n : Nat) : (beBytes w n).length = w := by simp [beBytes]

theorem beNat_append (a b : List Byte) : beNat (a ++ b) = beNat a * 256 ^ b.length + beNat b := by
  unfold beNat
  have key : ∀ (b : List Byte) (x : Nat), b.foldl (fun n b => n * 256 + b.toNat) x =
      x * 256 ^ b.length + b.foldl (fun n b => n * 256 + b.toNat) 0 := by
    intro b
    induction b with
    | nil => intro x; simp
    | cons c b ih =>
      intro x
      simp only [List.foldl_cons, List.length_cons, pow_succ]
      rw [ih (x * 256 + c.toNat), ih (0 * 256 + c.toNat)]
      ring
  rw [List.foldl_append, key]

/-- Little-endian bytes, read from the last one back, are the number's low bytes. -/
theorem beNat_leBytes_reverse (w n : Nat) : beNat (leBytes w n).reverse = n % 256 ^ w := by
  induction w generalizing n with
  | zero => simp [leBytes, beNat, Nat.mod_one]
  | succ w ih =>
    rw [leBytes, List.reverse_cons, beNat_append, ih]
    have h : beNat [BitVec.ofNat 8 n] = n % 256 := by simp [beNat]
    rw [h, List.length_singleton, pow_one, pow_succ, Nat.mul_comm (256 ^ w) 256, Nat.mod_mul]
    omega

/-- A big-endian field holds the number's low bytes (R186). -/
theorem beNat_beBytes (w n : Nat) : beNat (beBytes w n) = n % 256 ^ w := beNat_leBytes_reverse w n

@[simp] theorem absentBytes_length (n k w : Nat) : (absentBytes n k w).length = w := by
  induction w generalizing k with
  | zero => rfl
  | succ w ih => simp [absentBytes, ih]

/-! ## Fields one after another -/

/-- Bodies joined carry their fields one after another. -/
theorem carries_append {f g : List WireField} {a b : List Byte} (ha : carries f a)
    (hb : carries g b) : carries (f ++ g) (a ++ b) := by
  induction f generalizing a with
  | nil => simp only [carries] at ha; subst ha; exact hb
  | cons x f ih =>
    obtain ⟨w, v⟩ := x
    obtain ⟨h1, h2, h3⟩ := ha
    refine ⟨by simp; omega, ?_, ?_⟩
    · rw [List.take_append_of_le_length h1]; exact h2
    · rw [List.drop_append_of_le_length h1]; exact ih h3

theorem carries_nil : carries [] [] := rfl

/-- A field first, then the others. -/
theorem carries_cons {x : WireField} {f : List WireField} {a b : List Byte} (ha : carries [x] a)
    (hb : carries f b) : carries (x :: f) (a ++ b) := carries_append ha hb

/-- One big-endian field (R186). -/
theorem carries_beBytes (w n : Nat) : carries [(w, some n)] (beBytes w n) := by
  refine ⟨by simp, ?_, by simp [carries]⟩
  intro x hx
  cases hx
  rw [List.take_of_length_le (by simp), beNat_beBytes]

theorem carries_be1 (n : Nat) : carries [(1, some n)] (be1 n) := carries_beBytes 1 n
theorem carries_be2 (n : Nat) : carries [(2, some n)] (be2 n) := carries_beBytes 2 n
theorem carries_be4 (n : Nat) : carries [(4, some n)] (be4 n) := carries_beBytes 4 n
theorem carries_be8 (n : Nat) : carries [(8, some n)] (be8 n) := carries_beBytes 8 n

/-- An option of off and on (R186). -/
theorem carries_optionByte (b : Bool) : carries [flagField b] (optionByte b) := carries_be1 _

/-- Free bytes (log 3). -/
theorem carries_absentBytes (n k w : Nat) : carries [(w, none)] (absentBytes n k w) :=
  ⟨by simp, fun _ h => by simp at h, by simp [carries]⟩

/-- A value that may be absent (R186). -/
theorem carries_maybeBytes (n k w : Nat) (v : Option Nat) :
    carries (maybeField w v) (maybeBytes n k w v) := by
  cases v with
  | none => exact carries_append (carries_be1 0) (carries_absentBytes n k w)
  | some x => exact carries_append (carries_be1 1) (carries_beBytes w x)

/-- A list, entry by entry. -/
theorem carries_flatMap {α : Type} (l : List α) (f : α → List WireField) (g : α → List Byte)
    (h : ∀ a ∈ l, carries (f a) (g a)) : carries (l.flatMap f) (l.flatMap g) := by
  induction l with
  | nil => rfl
  | cons a l ih =>
    exact carries_append (h a List.mem_cons_self) (ih fun b hb => h b (List.mem_cons_of_mem _ hb))

/-- Counts, four bytes each (R186). -/
theorem carries_counts (l : List Nat) : carries (fieldsOf 4 l) (l.flatMap be4) := by
  have := carries_flatMap l (fun v => [(4, some v)]) be4 fun v _ => carries_be4 v
  rwa [← List.map_eq_flatMap] at this

/-- Flags, one byte each (R186). -/
theorem carries_flagBytes (f : FlagSet) : carries (f.toList.map flagField) (flagBytes f) := by
  unfold flagBytes
  have := carries_flatMap f.toList (fun b => [flagField b]) optionByte fun b _ => carries_optionByte b
  rwa [← List.map_eq_flatMap] at this

end Sys2Proof.Machine
end

