-- ==== Sys2Proof/Laws/Slots.lean ====
section
/-! SUPPORT. What the operations on the slot map come to: closing, evaluating, the completion walk, the
take, and what `settle` keeps. -/

namespace Sys2Proof.Machine

/-! ## Records of a slot map (R100) -/

/-- Placing an item adds its records. -/
theorem attachedRecords_place (k : Nat) (v : Slot) (t : Table Slot) :
    attachedRecords (tablePlace k v t) = v.contributors.length + attachedRecords t := by
  induction t with
  | nil => rfl
  | cons q t ih => obtain ⟨j, w⟩ := q; unfold tablePlace; split <;> simp [attachedRecords, ih]; omega

/-- The records of the slot at a key, if there is one. -/
def recordsAt (o : Option Slot) : Nat := match o with | some v => v.contributors.length | none => 0

/-- Erasing a key takes its records away. -/
theorem attachedRecords_erase (k : Nat) (t : Table Slot) (h : tableSorted t) :
    attachedRecords (tableErase k t) + recordsAt (tableFind k t) = attachedRecords t := by
  induction t with
  | nil => rfl
  | cons q t ih =>
    obtain ⟨j, w⟩ := q
    rw [tableSorted, List.map_cons, List.pairwise_cons] at h
    have ih := ih h.2
    unfold tableErase tableFind
    split
    · rename_i hk
      have : tableFind k t = none := by
        cases hf : tableFind k t with
        | none => rfl
        | some v => have := h.1 k (List.mem_map_of_mem (f := (·.1)) (mem_of_tableFind hf)); simp at hk this; omega
      rw [tableErase_of_none this]; simp [attachedRecords, recordsAt]; omega
    · simp only [attachedRecords]; omega

/-- Writing a key replaces its records. -/
theorem attachedRecords_insert (k : Nat) (v : Slot) (t : Table Slot) (h : tableSorted t) :
    attachedRecords (tableInsert k v t) + recordsAt (tableFind k t) = v.contributors.length + attachedRecords t := by
  rw [tableInsert, attachedRecords_place]; have := attachedRecords_erase k t h; omega

/-! ## What a close, an evaluation and a take keep -/

/-- What follows a close leaves true of the slot map: no slot appears, a slot that is not unclosed keeps
its close reason, every slot keeps contributors and deadline, and the horizon never falls. -/
structure SlotsKept (s t : State) : Prop where
  none : ∀ k, s.slot? k = none → t.slot? k = none
  closed : ∀ k v, s.slot? k = some v → v.unclosed = false → ∃ v', t.slot? k = some v' ∧
      v'.unclosed = false ∧
     v'.closeReason = v.closeReason ∧ v'.contributors = v.contributors
  stay : ∀ k v, s.slot? k = some v → ∃ v', t.slot? k = some v' ∧
      v'.contributors = v.contributors ∧ v'.deadline = v.deadline
  skip : t.window.counters.skippedInstants = s.window.counters.skippedInstants
  cfg : t.window.config = s.window.config
  hor : ∀ h, s.window.horizon = some h → ∃ h', t.window.horizon = some h' ∧ h ≤ h'

theorem SlotsKept.refl (s : State) : SlotsKept s s :=
    ⟨fun _ h => h, fun _ v h u => ⟨v, h, u, rfl, rfl⟩, fun _ v h => ⟨v, h, rfl, rfl⟩, rfl, rfl,
    fun h e => ⟨h, e, le_refl _⟩⟩

theorem SlotsKept.trans {s t u : State} (a : SlotsKept s t) (b : SlotsKept t u) : SlotsKept s u :=
    by
  refine ⟨fun k h => b.none k (a.none k h), ?_, ?_, b.skip.trans a.skip, b.cfg.trans a.cfg, ?_⟩
  · intro k v h x
    obtain ⟨v', h1, h2, h3, h4⟩ := a.closed k v h x
    obtain ⟨w, g1, g2, g3, g4⟩ := b.closed k v' h1 h2
    exact ⟨w, g1, g2, g3.trans h3, g4.trans h4⟩
  · intro k v h
    obtain ⟨v', h1, h2, h3⟩ := a.stay k v h
    obtain ⟨w, g1, g2, g3⟩ := b.stay k v' h1
    exact ⟨w, g1, g2.trans h2, g3.trans h3⟩
  · intro h e
    obtain ⟨h', e', l'⟩ := a.hor h e
    obtain ⟨h'', e'', l''⟩ := b.hor h' e'
    exact ⟨h'', e'', le_trans l' l''⟩

theorem SlotsKept.of {s t : State} (h : t.window = s.window) : SlotsKept s t := by
  have : ∀ k, t.slot? k = s.slot? k := fun k => by simp [State.slot?, h]
  refine ⟨fun k e => by rw [this]; exact e, fun k v e u => ⟨v, by rw [this]; exact e, u, rfl, rfl⟩, fun k v e => ⟨v, by rw [this]; exact e, rfl, rfl⟩, by rw [h], by rw [h], fun x e => ⟨x, by rw [h]; exact e, le_refl _⟩⟩

/-- Closing a slot at or above the horizon. -/
theorem closeSlot_slotsKept (n : Nat) (r : CloseReason) (s : State)
    (hn : ∀ h, s.window.horizon = some h → h ≤ n) : SlotsKept s (closeSlot n r s) := by
  unfold closeSlot
  split
  · exact .refl _
  · rename_i slot hs
    split
    · rename_i hu
      constructor
      · intro k hk
        simp only [State.slot?, tableFind_insert] at *
        split
        · rename_i he; subst he; rw [hk] at hs; cases hs
        · exact hk
      · intro k v hk hv
        simp only [State.slot?, tableFind_insert] at *
        split
        · rename_i he; subst he; rw [hk] at hs; cases hs; rw [hv] at hu; cases hu
        · exact ⟨v, hk, hv, rfl, rfl⟩
      · intro k v hk
        simp only [State.slot?, tableFind_insert] at *
        split
        · rename_i he; subst he; rw [hk] at hs; cases hs; exact ⟨_, rfl, rfl, rfl⟩
        · exact ⟨v, hk, rfl, rfl⟩
      · cases r <;> rfl
      · rfl
      · intro h he; exact ⟨n, rfl, hn h he⟩
    · exact .refl _

theorem closeSlot_horizon (n : Nat) (r : CloseReason)
    (s : State) : (closeSlot n r s).window.horizon = s.window.horizon ∨ (closeSlot n r s).window.horizon = some n := by
  unfold closeSlot; (repeat' split) <;> simp

/-- Closing a rising list of slots at or above the horizon. -/
theorem closeAll_slotsKept (l : List (Nat × CloseReason)) (s : State)
    (hl : (l.map (·.1)).Pairwise (· < ·))
    (hh : ∀ h, s.window.horizon = some h → ∀ p ∈ l, h ≤ p.1) : SlotsKept s (closeAll l s) := by
  induction l generalizing s with
  | nil => exact .refl _
  | cons p l ih =>
    simp only [List.map_cons, List.pairwise_cons] at hl
    refine (closeSlot_slotsKept p.1 p.2 s (fun h e => hh h e p List.mem_cons_self)).trans (ih _ hl.2 ?_)
    intro h e q hq
    have hpq := hl.1 q.1 (List.mem_map_of_mem hq)
    rcases closeSlot_horizon p.1 p.2 s with x | x
    · rw [x] at e; exact hh h e q (List.mem_cons_of_mem _ hq)
    · rw [x] at e; cases e; omega

/-- The completion walk closes in rising order, above the horizon (R107). -/
theorem walkInstants_rising (mark : Option Nat)
    (h : Nat) (t : Table Slot) : (walkInstants mark h t).Pairwise (· < ·) ∧
    ∀ n ∈ walkInstants mark h t, h < n := by
  induction t generalizing h with
  | nil => simp [walkInstants]
  | cons p t ih =>
    obtain ⟨n, slot⟩ := p
    unfold walkInstants
    split
    · exact ih h
    · rename_i hn
      have key : ∀ c : Bool, (if c = true then n :: walkInstants mark n t else []).Pairwise (· < ·) ∧ ∀ a ∈ (if c = true then n :: walkInstants mark n t else []), h < a := by
        intro c
        cases c
        · simp
        have := ih n
        simp only [if_true]
        refine ⟨List.pairwise_cons.mpr ⟨fun a ha => this.2 a ha, this.1⟩, ?_⟩
        intro a ha
        rcases List.mem_cons.mp ha with rfl | ha
        · omega
        · have := this.2 a ha; omega
      exact key _

theorem completionWalk_slotsKept (s : State) : SlotsKept s (completionWalk s) := by
  unfold completionWalk
  split
  · cases hh : s.window.horizon with
    | none => exact .refl _
    | some h =>
      have := walkInstants_rising s.time.cadenceMark h s.unclosedSlots
      refine closeAll_slotsKept _ _ ?_ ?_
      · simpa [List.map_map, Function.comp_def] using this.1
      · intro h' e p hp
        rw [hh] at e; cases e
        obtain ⟨n, hn, rfl⟩ := List.mem_map.mp hp
        exact le_of_lt (this.2 n hn)
  · exact .refl _

theorem tableFind_map (g : Nat → Slot →
    Slot) (k : Nat) (t : Table Slot) : tableFind k (t.map fun p => (p.1,
    g p.1 p.2)) = (tableFind k t).map (g k) := by
  induction t with
  | nil => rfl
  | cons p t ih =>
    obtain ⟨j, v⟩ := p
    simp only [List.map_cons, tableFind]
    split
    · rename_i h; subst h; rfl
    · exact ih

/-- R104: an evaluation leaves a slot as it is, or makes an OPEN one READY. -/
theorem evaluated_cases (rate n : Nat) (src : Table Entry) (v : Slot) : evaluated rate n src v = v ∨ (v.state = .opened ∧ evaluated rate n src v = { v with state := .ready }) := by
  unfold evaluated
  split
  · rename_i h; right; exact ⟨by simp [becomesReady] at h; exact h.1, rfl⟩
  · left; rfl

theorem evaluateAll_slotsKept (s : State) : SlotsKept s (evaluateAll s).1 := by
  have e : ∀ k, (evaluateAll s).1.slot? k =
      (s.slot? k).map (evaluated s.grid.rate k s.sources) :=
      fun k => tableFind_map (fun n v => evaluated s.grid.rate n s.sources v) k _
  constructor
  · intro k hk; rw [e, hk]; rfl
  · intro k v hk hv; rw [e, hk]
    rcases evaluated_cases s.grid.rate k s.sources v with h | ⟨h, _⟩
    · exact ⟨v, by simp [h], hv, rfl, rfl⟩
    · simp [Slot.unclosed, h] at hv
  · intro k v hk; rw [e, hk]
    rcases evaluated_cases s.grid.rate k s.sources v with h | ⟨_, h⟩
    · exact ⟨v, by simp [h], rfl, rfl⟩
    · exact ⟨_, rfl, by rw [h], by rw [h]⟩
  · rfl
  · rfl
  · intro h e; exact ⟨h, e, le_refl _⟩

theorem takeIfIdle_slotsKept (s : State) : SlotsKept s (takeIfIdle s).1 := by
  unfold takeIfIdle
  split
  · rename_i n rest hc hqe
    have e : ∀ k, (takeHead n rest s).1.slot? k = tableFind k (tableModify n (fun slot => { slot with state := .assembling }) s.window.slots) := by
      intro k; unfold State.slot?; rw [takeHead_window]
    constructor
    · intro k hk; rw [e, tableFind_modify]; simp only [State.slot?] at hk; split
      · rename_i h; subst h; rw [hk]; rfl
      · exact hk
    · intro k v hk hv; rw [e, tableFind_modify]; simp only [State.slot?] at hk; split
      · rename_i h; subst h; rw [hk]; exact ⟨_, rfl, by simp [Slot.unclosed], rfl, rfl⟩
      · exact ⟨v, hk, hv, rfl, rfl⟩
    · intro k v hk; rw [e, tableFind_modify]; simp only [State.slot?] at hk; split
      · rename_i h; subst h; rw [hk]; exact ⟨_, rfl, rfl, rfl⟩
      · exact ⟨v, hk, rfl, rfl⟩
    · rw [takeHead_window]
    · rw [takeHead_window]
    · rw [takeHead_window]; intro h e; exact ⟨h, e, le_refl _⟩
  · exact .refl _

theorem takeAndReevaluate_slotsKept (s : State) : SlotsKept s (takeAndReevaluate s) := by
  unfold takeAndReevaluate reevaluateAfterTake; dsimp only
  (repeat' split)
  · exact (takeIfIdle_slotsKept s).trans ((evaluateAll_slotsKept _).trans (completionWalk_slotsKept _))
  · exact (takeIfIdle_slotsKept s).trans (evaluateAll_slotsKept _)
  · exact takeIfIdle_slotsKept s

/-- What follows the closes of one cause keeps the slot map. -/
theorem settle_slotsKept (s : State) : SlotsKept s
    (settle s) := (completionWalk_slotsKept s).trans (takeAndReevaluate_slotsKept _)

/-- A rising list of unclosed slots: each is closed for its reason, and no other slot changes. -/
theorem closeAll_closes (l : List (Nat × CloseReason)) (s : State)
    (hl : (l.map (·.1)).Pairwise (· < ·))
    (hs : ∀ p ∈ l, ∃ v, s.slot? p.1 = some v ∧ v.unclosed = true) :
    (∀ k r v, (k, r) ∈ l → s.slot? k = some v → (closeAll l s).slot? k = some { v with state := .closed, closeReason := some r }) ∧
    (∀ k, k ∉ l.map (·.1) → (closeAll l s).slot? k = s.slot? k) ∧
    (l ≠ [] → (closeAll l s).window.horizon = l.getLast?.map (·.1)) ∧
    (closeAll l s).window.counters.skippedInstants = s.window.counters.skippedInstants ∧
        (closeAll l s).window.config = s.window.config := by
  induction l generalizing s with
  | nil => simp [closeAll]
  | cons p l ih =>
    obtain ⟨n, r⟩ := p
    simp only [List.map_cons, List.pairwise_cons] at hl
    obtain ⟨v, hv, hu⟩ := hs (n, r) List.mem_cons_self
    simp only at hv
    have hc : closeSlot n r s = { s with window := { s.window with
        slots := tableInsert n { v with state := .closed, closeReason := some r } s.window.slots
        assemblyQueue := s.window.assemblyQueue ++ [n], horizon := some n
        counters := countClose r s.window.counters } } := by
      unfold closeSlot; rw [hv]; simp [hu]
    have hfind : ∀ k, (closeSlot n r s).slot? k = if k = n then some { v with state := .closed, closeReason := some r } else s.slot? k := by
      intro k; rw [hc]; simp [State.slot?, tableFind_insert]
    have hrest : ∀ q ∈ l, q.1 ≠ n := fun q hq => by have := hl.1 q.1 (List.mem_map_of_mem hq); omega
    obtain ⟨i1, i2, i3, i4, i5⟩ := ih (closeSlot n r s) hl.2 (by
      intro q hq; obtain ⟨w, hw, hwu⟩ := hs q (List.mem_cons_of_mem _ hq)
      exact ⟨w, by rw [hfind, if_neg (hrest q hq)]; exact hw, hwu⟩)
    have hnl : n ∉ l.map (·.1) := by
      intro h; obtain ⟨q, hq, e⟩ := List.mem_map.mp h; exact hrest q hq e
    refine ⟨?_, ?_, ?_, ?_, ?_⟩
    · intro k r' w hm hw
      rcases List.mem_cons.mp hm with h | h
      · cases h; rw [hv] at hw; cases hw
        show (closeAll l (closeSlot n r s)).slot? n = _
        rw [i2 n hnl, hfind, if_pos rfl]
      · have hk := hrest _ h; simp only at hk
        exact i1 k r' w h (by rw [hfind, if_neg hk]; exact hw)
    · intro k hk
      simp only [List.map_cons, List.mem_cons, not_or] at hk
      show (closeAll l (closeSlot n r s)).slot? k = _
      rw [i2 k hk.2, hfind, if_neg hk.1]
    · intro _
      show (closeAll l (closeSlot n r s)).window.horizon = _
      cases l with
      | nil => rw [closeAll, hc]; rfl
      | cons q l => rw [i3 (by simp)]; simp
    · show (closeAll l (closeSlot n r s)).window.counters.skippedInstants = _
      rw [i4, hc]; cases r <;> rfl
    · show (closeAll l (closeSlot n r s)).window.config = _
      rw [i5, hc]

theorem mem_unclosedSlots {s : State}
    (hs : tableSorted s.window.slots) (k : Nat) (v : Slot) : (k, v) ∈ s.unclosedSlots ↔
    s.slot? k = some v ∧ v.unclosed = true := by
  unfold State.unclosedSlots
  rw [List.mem_filter]
  constructor
  · rintro ⟨a, b⟩; exact ⟨tableFind_of_mem hs a, b⟩
  · rintro ⟨a, b⟩; exact ⟨mem_of_tableFind a, b⟩

theorem unclosedSlots_sorted {s : State}
    (hs : tableSorted s.window.slots) : (s.unclosedSlots.map (·.1)).Pairwise (· < ·) :=
  List.Pairwise.sublist (List.Sublist.map _ List.filter_sublist) hs

/-- A slot that is unclosed afterwards was unclosed before. -/
theorem SlotsKept.unclosed {s t : State} (w : SlotsKept s t) : ∀ k v, t.slot? k = some v →
    v.unclosed = true → ∃ w, s.slot? k = some w ∧ w.unclosed = true := by
  intro k v hk hv
  cases hs : s.slot? k with
  | none => have := w.none k hs; rw [this] at hk; cases hk
  | some x =>
    refine ⟨x, rfl, ?_⟩
    by_contra hx
    obtain ⟨y, h1, h2, _⟩ := w.closed k x hs (by simpa using hx)
    rw [h1] at hk; cases hk; rw [h2] at hv; cases hv

/-! ## The one form of the slot map -/

/-- The slot map has its keys strictly rising. -/
abbrev SlotsSorted (s : State) : Prop := tableSorted s.window.slots

theorem closeSlot_slotsSorted (n : Nat) (r : CloseReason) (s : State)
    (hs : SlotsSorted s) : SlotsSorted (closeSlot n r s) := by
  unfold closeSlot; split
  · exact hs
  · split
    · exact tableInsert_sorted hs
    · exact hs

theorem closeAll_slotsSorted (l : List (Nat × CloseReason)) (s : State)
    (hs : SlotsSorted s) : SlotsSorted (closeAll l s) := by
  induction l generalizing s with
  | nil => exact hs
  | cons p l ih => exact ih _ (closeSlot_slotsSorted _ _ _ hs)

theorem completionWalk_slotsSorted (s : State)
    (hs : SlotsSorted s) : SlotsSorted (completionWalk s) := by
  unfold completionWalk; (repeat' split) <;> first | exact hs | exact closeAll_slotsSorted _ _ hs

theorem evaluateAll_slotsSorted (s : State)
    (hs : SlotsSorted s) : SlotsSorted (evaluateAll s).1 := by
  have : tableSorted ((s.window.slots.map fun p => (p.1,
      evaluated s.grid.rate p.1 s.sources p.2))) := by
    unfold SlotsSorted tableSorted at *; simpa [List.map_map, Function.comp_def] using hs
  exact this

theorem takeIfIdle_slotsSorted (s : State) (hs : SlotsSorted s) : SlotsSorted (takeIfIdle s).1 := by
  unfold takeIfIdle; split
  · unfold SlotsSorted; rw [takeHead_window]; exact tableModify_sorted hs
  · exact hs

theorem settle_slotsSorted (s : State) (hs : SlotsSorted s) : SlotsSorted (settle s) := by
  unfold settle takeAndReevaluate reevaluateAfterTake; dsimp only
  (repeat' split)
  · exact completionWalk_slotsSorted _ (evaluateAll_slotsSorted _ (takeIfIdle_slotsSorted _ (completionWalk_slotsSorted _ hs)))
  · exact evaluateAll_slotsSorted _ (takeIfIdle_slotsSorted _ (completionWalk_slotsSorted _ hs))
  · exact takeIfIdle_slotsSorted _ (completionWalk_slotsSorted _ hs)

/-! ## Outside EARLY mode -/

/-- Every slot stays, with its close reason, contributors and deadline. -/
def SlotsUnchanged (s t : State) : Prop := ∀ k v, s.slot? k = some v → ∃ v', t.slot? k = some v' ∧
    v'.closeReason = v.closeReason ∧ v'.contributors = v.contributors ∧ v'.deadline = v.deadline

/-- Outside EARLY mode nothing is closed by what follows a close (R107). -/
theorem settle_unless_early (s : State) (hm : s.window.config.mode ≠ .early) :
    SlotsUnchanged s (settle s) ∧ (settle s).window.horizon = s.window.horizon := by
  have hw : ∀ t : State, t.window.config.mode ≠ .early → completionWalk t = t := by
    intro t ht; unfold completionWalk; rw [if_neg (fun h => ht h.1)]
  unfold settle; rw [hw s hm]
  have htw : (takeIfIdle s).1.window.config = s.window.config ∧
      (takeIfIdle s).1.window.horizon = s.window.horizon := by
    unfold takeIfIdle; split
    · rw [takeHead_window]; exact ⟨rfl, rfl⟩
    · exact ⟨rfl, rfl⟩
  have h1 : SlotsUnchanged s (takeIfIdle s).1 := by
    unfold takeIfIdle; split
    · rename_i n rest _ hqe
      intro k v hk
      unfold State.slot? at *; rw [takeHead_window]; simp only; rw [tableFind_modify]; split
      · rename_i e; subst e; rw [hk]; exact ⟨_, rfl, rfl, rfl, rfl⟩
      · exact ⟨v, hk, rfl, rfl, rfl⟩
    · intro k v hk; exact ⟨v, hk, rfl, rfl, rfl⟩
  unfold takeAndReevaluate; dsimp only
  split
  · have he : ∀ t : State, t.window.config.mode ≠ .early →
      SlotsUnchanged t (reevaluateAfterTake t) ∧
      (reevaluateAfterTake t).window.horizon = t.window.horizon := by
      intro t ht
      have e : ∀ k, (evaluateAll t).1.slot? k = (t.slot? k).map (evaluated t.grid.rate k t.sources) := fun k => tableFind_map (fun n v => evaluated t.grid.rate n t.sources v) k _
      have h2 : SlotsUnchanged t (evaluateAll t).1 := by
        intro k v hk
        rw [e, hk]
        refine ⟨_, rfl, ?_, ?_, ?_⟩ <;> rcases evaluated_cases t.grid.rate k t.sources v with h | ⟨_, h⟩ <;> simp [h]
      have : reevaluateAfterTake t = (evaluateAll t).1 := by
        unfold reevaluateAfterTake; dsimp only; split
        · exact hw _ ht
        · rfl
      rw [this]; exact ⟨h2, rfl⟩
    obtain ⟨a, b⟩ := he _ (by rw [htw.1]; exact hm)
    refine ⟨?_, b.trans htw.2⟩
    intro k v hk
    obtain ⟨v', g1, g2, g3, g4⟩ := h1 k v hk
    obtain ⟨v'', f1, f2, f3, f4⟩ := a k v' g1
    exact ⟨v'', f1, f2.trans g2, f3.trans g3, f4.trans g4⟩
  · exact ⟨h1, htw.2⟩

/-- The last item of a sorted map is the one of the greatest key. -/
theorem tableSorted_last {t : Table Slot} (hs : tableSorted t) (x : Nat) (v : Slot)
    (hx : (x, v) ∈ t) (hle : ∀ p ∈ t, p.1 ≤ x) : t.getLast?.map (·.1) = some x := by
  obtain ⟨q, hq⟩ : ∃ q, t.getLast? = some q := by
    cases t with
    | nil => cases hx
    | cons a l => exact ⟨_, List.getLast?_eq_some_getLast (by simp)⟩
  rw [hq]; simp
  have hqm := List.mem_of_getLast? hq
  have h1 := hle q hqm
  obtain ⟨l, hl⟩ := List.getLast?_eq_some_iff.mp hq
  rw [hl] at hs hx
  simp only [tableSorted, List.map_append, List.pairwise_append] at hs
  rcases List.mem_append.mp hx with hx | hx
  · have := hs.2.2 x (List.mem_map_of_mem (f := (·.1)) hx) q.1 (by simp); omega
  · simp at hx; rw [← hx]

/-- The first unclosed slot is the oldest. -/
theorem unclosedSlots_first {s : State} (hs : tableSorted s.window.slots) (x : Nat) (v : Slot)
    (hx : s.slot? x = some v) (hu : v.unclosed = true) :
    tableFirst s.unclosedSlots = some x ↔ ∀ k o, s.slot? k = some o → o.unclosed = true →
        x ≤ k := by
  have hso := unclosedSlots_sorted hs
  have hxm := (mem_unclosedSlots hs x v).mpr ⟨hx, hu⟩
  have hm := fun k o => mem_unclosedSlots hs k o
  generalize s.unclosedSlots = t at *
  cases t with
  | nil => cases hxm
  | cons p t =>
    simp only [List.map_cons, List.pairwise_cons] at hso
    simp only [tableFirst, List.head?_cons, Option.map_some, Option.some.injEq]
    constructor
    · rintro rfl k o hk ho
      rcases List.mem_cons.mp ((hm k o).mpr ⟨hk, ho⟩) with h | h
      · rw [← h]
      · exact le_of_lt (hso.1 k (List.mem_map_of_mem (f := (·.1)) h))
    · intro h
      have := (hm p.1 p.2).mp List.mem_cons_self
      have h1 := h p.1 p.2 this.1 this.2
      rcases List.mem_cons.mp hxm with e | e
      · rw [← e]
      · have := hso.1 x (List.mem_map_of_mem (f := (·.1)) e); omega

/-- Closing every unclosed slot that passes a test, for one reason, and what follows. -/
theorem closeAll_toClose_settle (s : State) (hs : SlotsSorted s) (r : CloseReason) (p : Nat →
    Bool) (t : State) (ht : t = settle (closeAll (s.toClose r p) s)) :
   (∀ k slot, s.slot? k = some slot → (slot.unclosed = true → p k = true →
       ∃ slot', t.slot? k = some slot' ∧ slot'.unclosed = false ∧
       slot'.contributors = slot.contributors ∧ slot'.closeReason = some r) ∧
     (slot.unclosed = false → ∃ slot', t.slot? k = some slot' ∧ slot'.unclosed = false ∧
         slot'.contributors = slot.contributors ∧ slot'.closeReason = slot.closeReason)) ∧
   (s.window.config.mode ≠ .early → ∀ k slot, s.slot? k = some slot →
       slot.unclosed = false ∨ p k = false → ∃ slot', t.slot? k = some slot' ∧
       slot'.contributors = slot.contributors ∧ slot'.closeReason = slot.closeReason) ∧
   (s.window.config.mode ≠ .early → (∀ k slot, s.slot? k = some slot → slot.unclosed = true →
       p k = false) → t.window.horizon = s.window.horizon) ∧
   (s.window.config.mode ≠ .early → ∀ k slot, s.slot? k = some slot → slot.unclosed = true →
       p k = true → (∀ j o, s.slot? j = some o → o.unclosed = true → p j = true → j ≤ k) →
       t.window.horizon = some k) := by
  have hmap : (s.toClose r p).map (·.1) = (s.unclosedSlots.filter fun q => p q.1).map (·.1) := by
    simp [State.toClose, List.map_map, Function.comp_def]
  have hsub : tableSorted (s.unclosedSlots.filter fun q => p q.1) :=
      List.Pairwise.sublist (List.Sublist.map _ List.filter_sublist) (unclosedSlots_sorted hs)
  obtain ⟨c1, c2, c3, c4, c5⟩ := closeAll_closes (s.toClose r p) s (by rw [hmap]; exact hsub) (by
      intro q hq; obtain ⟨q, hqq, rfl⟩ := List.mem_map.mp hq
      obtain ⟨hq1, hq2⟩ := List.mem_filter.mp hqq
      exact ⟨q.2, (mem_unclosedSlots hs q.1 q.2).mp hq1⟩)
  have hin : ∀ k slot, s.slot? k = some slot → slot.unclosed = true → p k = true →
      (k, r) ∈ s.toClose r p := fun k slot a b c =>
    List.mem_map.mpr ⟨(k, slot), List.mem_filter.mpr ⟨(mem_unclosedSlots hs k slot).mpr ⟨a, b⟩,
        c⟩, rfl⟩
  have hout : ∀ k slot, s.slot? k = some slot → slot.unclosed = false ∨ p k = false →
      (closeAll (s.toClose r p) s).slot? k = some slot := by
    intro k slot a b
    rw [c2]; exact a
    rw [hmap]; intro h; obtain ⟨⟨_, q⟩, hq, rfl⟩ := List.mem_map.mp h
    obtain ⟨h1, h2⟩ := List.mem_filter.mp hq
    obtain ⟨h3, h4⟩ := (mem_unclosedSlots hs _ _).mp h1
    rw [a] at h3; cases h3
    rcases b with b | b
    · rw [b] at h4; cases h4
    · simp only at h2; rw [b] at h2; cases h2
  have w := settle_slotsKept (closeAll (s.toClose r p) s)
  rw [← ht] at w
  refine ⟨fun k slot hk => ⟨fun hu hp => ?_, fun hu => ?_⟩, fun hm k slot hk hor => ?_,
      fun hm hn => ?_, fun hm k slot hk hu hp hmax => ?_⟩
  · have := c1 k r slot (hin k slot hk hu hp) hk
    obtain ⟨v', g1, g2, g3, g4⟩ := w.closed k _ this (by rfl)
    exact ⟨v', g1, g2, g4, g3⟩
  · obtain ⟨v', g1, g2, g3, g4⟩ := w.closed k slot (hout k slot hk (.inl hu)) hu
    exact ⟨v', g1, g2, g4, g3⟩
  · have hm' : (closeAll (s.toClose r p) s).window.config.mode ≠ .early := by rw [c5]; exact hm
    rw [ht]
    obtain ⟨v, a, b, c, d⟩ := (settle_unless_early _ hm').1 k slot (hout k slot hk hor)
    exact ⟨v, a, c, b⟩
  · have : s.toClose r p = [] := by
      have : s.unclosedSlots.filter (fun q => p q.1) = [] := by
        rw [List.filter_eq_nil_iff]; intro q hq
        obtain ⟨a, b⟩ := (mem_unclosedSlots hs q.1 q.2).mp hq
        simp [hn _ _ a b]
      unfold State.toClose; rw [this]; rfl
    rw [ht, this]; exact (settle_unless_early s hm).2
  · have hm' : (closeAll (s.toClose r p) s).window.config.mode ≠ .early := by rw [c5]; exact hm
    have hxm : (k, slot) ∈ s.unclosedSlots.filter fun q => p q.1 :=
        List.mem_filter.mpr ⟨(mem_unclosedSlots hs k slot).mpr ⟨hk, hu⟩, hp⟩
    rw [ht, (settle_unless_early _ hm').2, c3 (by intro h; have := hin k slot hk hu hp; rw [h] at this; cases this)]
    rw [← List.getLast?_map, hmap, List.getLast?_map]
    exact tableSorted_last hsub k slot hxm (fun q hq => by
      obtain ⟨h1, h2⟩ := List.mem_filter.mp hq
      obtain ⟨h3, h4⟩ := (mem_unclosedSlots hs q.1 q.2).mp h1
      exact hmax q.1 q.2 h3 h4 h2)

/-! ## The completion walk (R107) -/

/-- The instants the walk closes: READY, with no gap above the cadence mark between them and the horizon. -/
theorem mem_walkInstants (mark : Option Nat) (h : Nat) (t : Table Slot)
    (hs : tableSorted t) (k : Nat) :
   k ∈ walkInstants mark h t ↔ h < k ∧ (∃ v, (k, v) ∈ t ∧ v.state = .ready) ∧
       ∀ x, h < x → x < k → (∃ v, (x, v) ∈ t ∧ v.state = .ready) ∨ ((∀ v, (x, v) ∉ t) ∧
       ∃ m, mark = some m ∧ x ≤ m) := by
  induction t generalizing h with
  | nil => simp [walkInstants]
  | cons p t ih =>
    obtain ⟨n, slot⟩ := p
    rw [tableSorted, List.map_cons, List.pairwise_cons] at hs
    have hlt : ∀ x v, (x, v) ∈ t → n < x := fun x v hv => hs.1 x (List.mem_map_of_mem (f :=
        (·.1)) hv)
    have hmem : ∀ x v, x ≠ n → ((x, v) ∈ (n, slot) :: t ↔ (x, v) ∈ t) := by
      intro x v hx; simp [hx]
    unfold walkInstants
    split
    · rename_i hn
      rw [ih h hs.2]
      constructor
      · rintro ⟨a, b, c⟩
        refine ⟨a, ?_, ?_⟩
        · obtain ⟨v, hv, hr⟩ := b; exact ⟨v, List.mem_cons_of_mem _ hv, hr⟩
        · intro x h1 h2; have := c x h1 h2; simpa [hmem x _ (show x ≠ n by omega)] using this
      · rintro ⟨a, b, c⟩
        refine ⟨a, ?_, ?_⟩
        · obtain ⟨v, hv, hr⟩ := b; exact ⟨v, (hmem k v (by omega)).1 hv, hr⟩
        · intro x h1 h2; have := c x h1 h2; simpa [hmem x _ (show x ≠ n by omega)] using this
    · rename_i hn
      have hgap : ((n = h + 1 ∨ (match mark with | some m => decide (n ≤ m + 1) | none => false) = true) ↔ ∀ x, h < x → x < n → ∃ m, mark = some m ∧ x ≤ m) := by
        constructor
        · rintro (e | e) x h1 h2
          · omega
          · cases mark with
            | none => cases e
            | some m => simp at e; exact ⟨m, rfl, by omega⟩
        · intro hx
          by_cases e : n = h + 1
          · exact .inl e
          · right
            obtain ⟨m, rfl, hm⟩ := hx (n - 1) (by omega) (by omega)
            simp; omega
      dsimp only
      have key : ∀ c : Bool, (c = true ↔ (slot.state = .ready ∧
          ∀ x, h < x → x < n → ∃ m, mark = some m ∧
          x ≤ m)) → (k ∈ (if c = true then n :: walkInstants mark n t else []) ↔
          (slot.state = .ready ∧ ∀ x, h < x → x < n → ∃ m, mark = some m ∧ x ≤ m) ∧
          (k = n ∨ k ∈ walkInstants mark n t)) := by
        intro c hc; rw [← hc]; cases c <;> simp
      refine Iff.trans (key _ ?_) ?_
      · rw [← hgap]; cases mark <;> simp
      rw [ih n hs.2]
      constructor
      · rintro ⟨⟨a1, a2⟩, rfl | ⟨b1, ⟨v, hv, hr⟩, b3⟩⟩
        · refine ⟨by omega, ⟨slot, List.mem_cons_self, a1⟩, ?_⟩
          intro x h1 h2; right
          refine ⟨?_, a2 x h1 h2⟩
          intro v hv; rw [hmem x v (by omega)] at hv; have := hlt x v hv; omega
        · refine ⟨by omega, ⟨v, List.mem_cons_of_mem _ hv, hr⟩, ?_⟩
          intro x h1 h2
          rcases Nat.lt_trichotomy x n with h3 | h3 | h3
          · right; refine ⟨?_, a2 x h1 h3⟩
            intro v hv; rw [hmem x v (by omega)] at hv; have := hlt x v hv; omega
          · subst h3; exact .inl ⟨slot, List.mem_cons_self, a1⟩
          · have := b3 x h3 h2; simpa [hmem x _ (show x ≠ n by omega)] using this
      · rintro ⟨a, ⟨v, hv, hr⟩, c⟩
        have hkn : n ≤ k := by
          rcases List.mem_cons.1 hv with e | e
          · cases e; omega
          · have := hlt k v e; omega
        have gap : ∀ x, h < x → x < n → ∃ m, mark = some m ∧ x ≤ m := by
          intro x h1 h2
          rcases c x h1 (by omega) with ⟨v, hv, _⟩ | ⟨_, h3⟩
          · rw [hmem x v (by omega)] at hv; have := hlt x v hv; omega
          · exact h3
        by_cases e : k = n
        · subst e
          refine ⟨⟨?_, gap⟩, .inl rfl⟩
          rcases List.mem_cons.1 hv with e | e
          · cases e; exact hr
          · have := hlt k v e; omega
        · refine ⟨⟨?_, gap⟩, .inr ⟨by omega, ⟨v, (hmem k v e).1 hv, hr⟩, ?_⟩⟩
          · rcases c n (by omega) (by omega) with ⟨v, hv, h1⟩ | ⟨h3, _⟩
            · rcases List.mem_cons.1 hv with e | e
              · cases e; exact h1
              · have := hlt n v e; omega
            · exact absurd List.mem_cons_self (h3 slot)
          · intro x h1 h2; have := c x (by omega) h2; simpa [hmem x _ (show x ≠ n by omega)] using this

end Sys2Proof.Machine
end

