-- ==== Sys2Proof/WellFormed.lean ====
section
/-! DEFINITION. Which commands are well formed: an operand that is an instant number lies in the range
R3 gives; every other operand is well formed by its type. -/

namespace Sys2Proof

/-- One more than the greatest instant number at the greatest alignment rate, 120 (R3). -/
def instantBound : Nat := (Config.maxSecond + 1) * 120

/-- A command is well formed when its instant number, if it has one, is one that R3 allows. -/
def Instr.wellFormed : Instr → Bool
  | .deadlineExpiry n => decide (n < instantBound)
  | .powerOn | .resetnAssert | .resetEnd | .ppsEdge | .missingPpsCheck | .localTimeStop
  | .cadenceEvent | .ingestByte _ _ | .ingestFrame _ _ | .placementStep | .descriptionHandling
  | .setHandover | .assemblyEnd | .transmissionEnd _ | .busyAssert _ | .busyDeassert _
  | .inhibitAssert | .inhibitDeassert | .clByte _ | .requestFrame _ | .clTransmissionEnd
  | .unknownRequest | .identify | .readStatus | .configureGrid | .configureRelease
  | .configureTime | .setSecond | .configureIngest | .readUnknownLog | .declareSource
  | .amendSource | .retireSource | .suspendSource | .resumeSource | .readSource | .stageView
  | .cancelView | .readView | .configureReleaseLink | .readReleaseLinks | .start | .stop
  | .releaseThrough | .readWindow | .resetWindow | .resetDevice | .clearCounters | .clearFaults
  | .setNotices => true

end Sys2Proof
end

