-- ==== Sys2Proof/Tests/Slice0.lean ====
section
/-! SUPPORT. Tests: the worked tables of the spec, one step at a time, and for every obligation with
hypotheses a state and operands that meet them. Every expected value is the spec's own; each test's
docstring names its rule or table. -/

namespace Sys2Proof.Tests

open Sys2Proof Sys2Proof.Machine

/-! ## Helpers -/

/-- The state a command answers. -/
def after (c : Instr) (s : State) : State :=
  match exec c s with
  | .next t => t
  | _ => s

/-- Local time at a second and fraction. -/
def clock (second fraction : Nat) (s : State) : State :=
  { s with time := { s.time with second := second, fraction := fraction } }

def quality (q : TimeQuality) (s : State) : State := { s with time := { s.time with quality := q } }

def opState (o : OpState) (s : State) : State :=
  { s with reporting := { s.reporting with opState := o } }

/-- The Command Link's line busy, so that nothing leaves it. -/
def busyLine (s : State) : State :=
  { s with command := { s.command with line := some (.reply ⟨2, 0, .ok, []⟩) } }

/-- A request waiting at the head of the request queue. -/
def asked (code : Byte) (fields : List Byte) (s : State) : State :=
  { s with command := { s.command with requests := [⟨code, 7, fields⟩] } }

/-- RUNNING at alignment rate 50 in second 1,000, with the horizon just below instant 50,000. -/
def running : State :=
  let s := quality .locked (opState .running (clock 1000 0 State.reset))
  { s with
    time := { s.time with cadenceMark := some 49999 }
    window := { s.window with horizon := some 49999 } }

/-- An ACTIVE required source: identifier 2,301, rate 50, time base 1,000,000, one phasor. -/
def source : Entry :=
  { state := .active, id := 2301, links := ⟨true, true, false, false⟩,
    shape := { rate := 50, timeBase := 1000000, phasors := 1, analogs := 0, order := .big },
    options := { required := true }, latency := 0, receipt := .clear, missCount := 0,
    heldCount := 0, counters := {} }

def withEntry (e : Entry) (s : State) : State := { s with sources := [(3, e)] }

/-- A frame of identifier 2,301 on IL0, stamped at (1,000, 95,000). -/
def frame (kind : FieldKind) (body : List Byte) : IngestFrame :=
  { link := .il0, kind := kind, id := 2301, body := body, stampSecond := 1000,
    stampFraction := 95000 }

/-- The frame in dispatch for entry 3. -/
def dispatched (kind : FieldKind) (body : List Byte) (s : State) : State :=
  { s with ingest := { s.ingest with dispatch := some ⟨frame kind body, 3⟩ } }

/-- A MEASUREMENT body of 23 bytes (R184): a timestamp, q 0, no flags, one phasor of angle 12,000. -/
def sampleBody (second fraction : Nat) : List Byte :=
  [0x08, 0xFD] ++ be4 second ++ beBytes 3 fraction ++ [0, 0, 0, 0, 0, 0, 0, 0, 0, 0, 0, 9] ++
    be2 12000

/-- A DESCRIPTION body (R185): F0 50, rate 25, time base 1,000, two phasors, one analog. -/
def description : List Byte := [0x08, 0xFD, 50, 25, 0, 3, 232, 1, 1, 0]

def slot (st : SlotState) : Slot :=
  { state := st, opener := .cadence, deadline := 6000300000, contributors := [],
    closeReason := if st = .closed ∨ st = .assembling then some .deadline else none,
    overdue := false }

def withSlots (slots : Table Slot) (s : State) : State :=
  { s with window := { s.window with slots := slots } }

def inMode (m : ReleaseMode) (s : State) : State :=
  { s with window := { s.window with config := { s.window.config with mode := m } } }

def record : SampleRecord :=
  { source := 3, instant := 50000, offset := 0, quality := 0, status := 0, frequency := 0,
    rocof := 0, phasors := [⟨9, 12000⟩], analogs := [], invalid := false, poorTime := false,
    reReferenced := false, unReferenced := false }

def view : Descriptor :=
  { tag := 7, divisor := 5, destination := .rl0, completeOnly := false, angleForm := .cdeg,
    magnitudeForm := .m16, shift := 4, order := .big, includeFrequency := true,
    sources := [⟨3, 1, 0⟩] }

def outSet (index : Nat) : OutSet :=
  { tag := 7, revision := 3, second := 1000, index := index, reason := .complete,
    quality := .locked, entryCount := 0, entries := [] }

/-- RL0 enabled, with the given queue. -/
def withQueue (sets : List OutSet) (sending : Bool) (s : State) : State :=
  { s with release := { s.release with
    enabled0 := true, queue0 := { sets := sets, sending := sending, counters := {} } } }

/-- Instant 50,000 in assembly, view V2 building. -/
def assembling : State :=
  let s := withSlots [(50000, { slot .assembling with contributors := [(3, record)] })]
    (withQueue [] false running)
  { s with
    window := { s.window with freeRecords := 65535 }
    assembler := { s.assembler with
      current := some 50000, dispositions := [⟨3, 2301, .present record⟩], nextView := some .v2 }
    views := { s.views with v2 := { s.views.v2 with current := some view, revision := 3 } } }

/-- The same, with every view considered. -/
def assembled : State :=
  { assembling with assembler := { assembling.assembler with nextView := none } }

/-- IL1 ON with its receiver in a state; the dispatcher BUSY. -/
def listening (r : Receiver) : State :=
  (dispatched .measurement [] (withEntry source running)).modifyLink .il1 fun k =>
    { k with on := true, receiver := r }

def receiving (r : Receiver) (s : State) : State :=
  { s with command := { s.command with receiver := r } }

/-- The bytes of a READ_STATUS frame behind its length: kind REQUEST, code 2, tag 7, CRC. -/
def readStatusContent : List Byte := [0x10, 2, 7]

def notice (p : Nat) : Notice :=
  { cls := .unknown, priority := p, subject := .none, detail := 0, second := 0 }

def withNotices (q : List Notice) (s : State) : State :=
  { s with reporting := { s.reporting with notices := q } }

/-! ## WellFormed: each check refuses an ill-formed command -/

/-- R3: instant numbers end below 4,294,967,296 × 120. -/
theorem test_wellFormed_bounds_the_instant :
    (Instr.deadlineExpiry 515396075520).wellFormed = false ∧
    (Instr.deadlineExpiry 515396075519).wellFormed = true := by decide

/-- The table gives no row bits. -/
theorem test_no_word_spells_a_command : decodeTableWord 8 0 = none := by decide

/-! ## Arithmetic: the tables of 01 -/

/-- R4, worked case and limit cases. -/
theorem test_grains : toGrains 1000000 1700000000 980512 = some (1700000000, 5883072) ∧
    toGrains 16000000 5 15999999 = some (6, 0) ∧
    toGrains 16000000 4294967295 15999999 = none ∧ toGrains 1000000 5 1000000 = none := by decide

/-- R5, worked case and limit cases: halves go to the later instant. -/
theorem test_instant : nearestInstant 50 1700000000 5883072 = some (85000000049, 3072) ∧
    nearestInstant 50 5 5940000 = some (300, -60000) ∧
    nearestInstant 50 4294967295 5940000 = none := by decide

/-- Examples of sorting (R5 to R7). -/
theorem test_sorting : nearestInstant 50 0 243000 = some (2, 3000) ∧
    nearestInstant 50 0 182000 = some (2, -58000) ∧ ownGridOffset 100 60000 = 0 ∧
    ownGridOffset 100 182000 = 2000 ∧ ownGridOffset 100 30000 = -30000 ∧
    ownGridOffset 50 20000 = 20000 := by decide

/-- Expected indices (R8). -/
theorem test_expected : expectedAt 50 25 48 = true ∧ expectedAt 50 25 49 = false ∧
    expectedAt 60 12 55 = true ∧ expectedAt 60 12 56 = false ∧ expectedAt 60 15 8 = true ∧
    expectedAt 10 12 5 = true ∧ expectedAt 10 12 6 = false := by decide

/-- Re-referencing of the worked case (R9, R10). -/
theorem test_rotation : rotation 120 3072 = -4 ∧ rotate 12000 (-4) = 11996#16 := by decide

/-- Latency of the worked case and of E3, E7 (R11, R12). -/
theorem test_latency :
    measuredLatency (1700000001 * 6000000 + 1500000) (1700000000 * 6000000 + 5883072) = 1616928 ∧
    nextLatency 1700000 1616928 = 1694808 ∧ nextLatency 889356 879400 = 888733 ∧
    nextLatency 888733 0 = 833187 ∧ measuredLatency 5 9 = 0 := by decide

/-- Waits (R13, R14): the worked case, and the 200-period limit. -/
theorem test_waits :
    waitNow { wait := .adaptive, minWait := 240000, margin := 120000 } 1740000 = 1860000 ∧
    waitsAllowed 3 7 20 = true ∧ waitsAllowed 3 5 120 = false ∧ waitsAllowed 3 4 120 = true := by
  decide

/-- Angle and magnitude tables (R15, R16). -/
theorem test_outputs : outAngle .cdeg 11996 = 6590 ∧ outAngle .cdeg 65535 = 35999 ∧
    outAngle .bin16 11996 = 11996 ∧ outMagnitude .m16 4 3000000 = 65535 ∧
    outMagnitude .m16 4 1000008 = 62501 ∧ outMagnitude .m16 8 16776831 = 65534 ∧
    outMagnitude .m16 0 40000 = 40000 ∧ outMagnitude .m16 6 3000000 = 46875 := by decide

/-- The CRC of "123456789" (11, R183). -/
theorem test_crc : crcBytes [49, 50, 51, 52, 53, 54, 55, 56, 57] = [0x26, 0x39, 0xF4, 0xCB] := by
  decide +kernel

/-! ## Time: the worked sequence of 02 -/

/-- Early side, snap forward 300 grains. -/
theorem test_ppsEdge_early : (after .ppsEdge (quality .locked
    (clock 1700000000 5999700 .reset))).time.grains = 1700000001 * 6000000 := by decide

/-- The third outlier in IDLE steps with the pending second. -/
theorem test_ppsEdge_steps :
    let s := clock 2 412000 { State.reset with time :=
      { State.reset.time with outlierRun := 2, pendingSecond := some 1700000000 } }
    (after .ppsEdge s).time.second = 1700000000 ∧ (after .ppsEdge s).time.quality = .locked ∧
    (after .ppsEdge s).time.pendingSecond = none := by decide

/-- No PPS: HOLDOVER with one second. -/
theorem test_missingPpsCheck :
    let t := (after .missingPpsCheck (quality .locked (clock 1700000050 601 .reset))).time
    t.quality = .holdover ∧ t.holdoverSeconds = 1 := by decide

/-- The count equals H: FREE_RUN and the fault. -/
theorem test_missingPpsCheck_limit :
    let s := quality .holdover (clock 1700000053 601 { State.reset with time :=
      { State.reset.time with holdoverSeconds := 3, holdoverLimit := 3 } })
    (after .missingPpsCheck s).time.quality = .freeRun ∧
    (after .missingPpsCheck s).flag .timeFreeRun = true := by decide

/-- R18. -/
theorem test_localTimeStop :
    (after .localTimeStop (clock 4294967295 5999999 .reset)).time.stopped = true := by decide

/-- R172: power-on restarts the clock at (0, 0) and holds the part. -/
theorem test_powerOn : (after .powerOn running).time = .reset ∧
    (after .powerOn running).inReset = true := by decide

theorem test_resetn : (after .ppsEdge (after .resetnAssert running)).time = .reset ∧
    (after .resetEnd (after .resetnAssert running)).inReset = false := by decide

/-! ## The window: the three-source sequence of 06 -/

/-- E1: cadence opens N0 with the fixed wait of code 0. -/
theorem test_cadence_opens :
    let s := { running with window := { running.window with
      config := { running.window.config with fixedCode := 0 } } }
    ((after .cadenceEvent s).slot? 50000).map (·.deadline) = some (1000 * 6000000 + 300000) := by
  decide

/-- R29: with no wait the slot's deadline is its instant time: it is closed as soon as it opens. -/
theorem test_cadence_expires :
    let s := { running with window := { running.window with
      config := { running.window.config with wait := .adaptive, margin := 0, minWait := 0 } } }
    let t := after .cadenceEvent s
    (t.slot? 50000).bind (·.closeReason) = some .deadline ∧ t.window.horizon = some 50000 := by decide

/-- R29: the deadline lies within the late side of the window, and local time has passed it; the edge that
snaps local time back finds the slot closed. -/
theorem test_ppsEdge_after_deadline :
    let s := clock 1000 300 (withSlots [(50000, { slot .opened with deadline := 6000000200 })]
      { running with time := { running.time with cadenceMark := some 50000 } })
    let t := after .ppsEdge s
    t.time.fraction = 0 ∧ (t.slot? 50000).bind (·.closeReason) = some .deadline := by decide

/-- A 257th slot has no room: the instant is skipped (R102). -/
theorem test_cadence_overruns :
    let s := withSlots [(49700, slot .assembling)] running
    (after .cadenceEvent s).window.counters.skippedInstants = 1 ∧
    (after .cadenceEvent s).flag .overrun = true := by decide

/-- E14: the deadline closes N0 + 1, and the walk closes N0 + 2, which is READY. -/
theorem test_deadlineExpiry :
    let s := withSlots [(50001, slot .opened), (50002, slot .ready), (50003, slot .opened)]
      (clock 1000 420000 { running with
        window := { running.window with horizon := some 50000 }
        time := { running.time with cadenceMark := some 50003 } })
    let t := after (.deadlineExpiry 50001) s
    t.window.horizon = some 50002 ∧ t.assembler.current = some 50001 ∧
    (t.slot? 50002).bind (·.closeReason) = some .complete := by decide

/-- R109: DEMAND mode marks it overdue and tells the host. -/
theorem test_deadlineExpiry_demand :
    let t := after (.deadlineExpiry 50000)
      (clock 1001 0 (inMode .demand (withSlots [(50000, slot .opened)] running)))
    (t.slot? 50000).map (·.overdue) = some true ∧ t.window.counters.overdueMarks = 1 := by decide

/-! ## The ingest side: the worked sequence of 03 -/

/-- The third row: the first of two marker bytes is discarded, the second kept. -/
theorem test_ingestByte :
    let t := after (.ingestByte .il1 0xA5) (listening .marker)
    (t.link .il1).receiver = .marker ∧ (t.link .il1).counters.huntBytes = 1 := by decide

/-- Two length bytes giving 600. -/
theorem test_ingestByte_length :
    let t := after (.ingestByte .il1 88) (listening (.length (some 2)))
    (t.link .il1).receiver = .hunt ∧ (t.link .il1).counters.lengthError = 1 := by decide

/-- A good frame waits in the FIFO while the dispatcher is BUSY. -/
theorem test_ingestFrame :
    let content : List Byte := 2 :: description
    let whole := content ++ crcBytes content
    let t := after (.ingestFrame .il1 (whole.getLastD 0))
      (listening (.frame 11 whole.dropLast))
    (t.link .il1).fifo.length = 1 ∧ (t.link .il1).counters.enqueued = 1 := by decide +kernel

/-- The last row: a CRC that does not match. -/
theorem test_ingestFrame_crc :
    let t := after (.ingestFrame .il1 0)
      (listening (.frame 11 (2 :: description ++ [0, 0, 0])))
    (t.link .il1).fifo = [] ∧ (t.link .il1).counters.crcError = 1 := by decide +kernel

/-- The example of PRIORITY with a fairness limit of 3: grant 4 goes to IL2. -/
theorem test_arbiter :
    let f := frame .measurement []
    let s := ((running.modifyLink .il0 fun k => { k with fifo := [f, f] }).modifyLink .il2
      fun k => { k with fifo := [f], passedOver := 3 }).modifyLink .il3
      fun k => { k with fifo := [f], passedOver := 3 }
    chooseLink { s with ingest := { s.ingest with fairness := 3 } } = some .il2 := by decide

/-- The example of a full log (R48). -/
theorem test_fullLog :
    let e (id : Word16) (seen : Nat) : LogEntry := ⟨id, .il0, seen, 1⟩
    let log := [e 4410 1700000120, e 4411 1700000120, e 9002 1700000131] ++
      (List.range 13).map fun k => e (BitVec.ofNat 16 (100 + k)) 1700000131
    (logRoom log).head?.map (·.id) = some 4411#16 := by decide

/-! ## Placement and descriptions: 05 -/

/-- A sample at its instant: placed, counted, its slot opened by arrival. -/
theorem test_placement :
    let t := after .placementStep
      (dispatched .measurement (sampleBody 1000 0) (withEntry source running))
    (t.entry 3).counters.accepted = 1 ∧ (t.entry 3).latency = 95000 ∧
    t.window.freeRecords = 65535 ∧ t.ingest.dispatch = none := by decide

/-- R29: a sample that opens its slot past the deadline: the slot holds it, and is closed with its step. -/
theorem test_placement_past_deadline :
    let s := clock 1000 400000 (inMode .deadline
      (dispatched .measurement (sampleBody 1000 0) (withEntry source running)))
    let t := after .placementStep { s with window := { s.window with
      config := { s.window.config with fixedCode := 0 } } }
    (t.entry 3).counters.accepted = 1 ∧
    (t.slot? 50000).map (fun x => (x.closeReason, x.contributors.length)) =
      some (some .deadline, 1) := by decide

/-- E5: below the horizon and not marked, LATE. -/
theorem test_placement_late :
    let t := after .placementStep
      (dispatched .measurement (sampleBody 999 0) (withEntry source running))
    (t.entry 3).counters.late = 1 ∧ t.window.freeRecords = 65536 := by decide

/-- R71: a changed shape makes the entry DECLARED. -/
theorem test_description :
    let e := { source with options := { source.options with remoteAllowed := true } }
    let t := after .descriptionHandling
      (dispatched .description description (withEntry e running))
    (t.entry 3).state = .declared ∧ (t.entry 3).shape =
      { rate := 25, timeBase := 1000, phasors := 2, analogs := 1, order := .big } := by decide

/-- R70: without the remote description option it is refused. -/
theorem test_description_refused :
    ((after .descriptionHandling
      (dispatched .description description (withEntry source running))).entry 3).counters
      = { remoteRefused := 1 } := by decide

/-! ## Assembly and release: 07 and 08 -/

/-- The example of holding a slow source, at (s, 6): the miss stalls it, and the hold is spent. -/
theorem test_disposition :
    let e := { source with
      shape := { source.shape with rate := 25 }
      options := { source.options with holdPolicy := .hold, holdLimit := 2, stallThreshold := 3 }
      receipt := Receipt.enter 50000 .clear, missCount := 2, heldCount := 2 }
    let p := e.dispose 50 50006 none (some record)
    p.1.state = .stalled ∧ p.1.missCount = 3 ∧ p.1.counters.absent = 1 ∧ p.2 = .absent := by decide

/-- The same at (s, 7), which is not expected: HELD, with nothing counted. -/
theorem test_disposition_notExpected :
    let e := { source with
      shape := { source.shape with rate := 25 }
      options := { source.options with holdPolicy := .hold, holdLimit := 2, stallThreshold := 3 }
      state := .stalled, missCount := 3, heldCount := 2 }
    e.dispose 50 50007 none (some record) = (e, .held record) := by decide

/-- R144, R148: the SET goes to RL0, whose link is idle, and begins at once. -/
theorem test_setHandover :
    let t := after .setHandover assembling
    t.release.queue0.sending = true ∧ t.release.queue0.sets.map (·.revision) = [3#16] ∧
    (t.view .v2).setsBuilt = 1 ∧ t.assembler.nextView = none := by decide

/-- R123. -/
theorem test_assemblyEnd :
    let t := after .assemblyEnd assembled
    t.slot? 50000 = none ∧ t.window.freeRecords = 65536 ∧ t.assembler.current = none := by decide

/-- A transmission ends under BUSY0: PAUSED (08, worked sequence). -/
theorem test_transmissionEnd :
    let t := after (.transmissionEnd .rl0)
      ((withQueue [outSet 0, outSet 1] true running).setBusy .rl0 true)
    t.linkState .rl0 = .paused ∧ t.release.queue0.counters.sent = 1 := by decide

/-- BUSY0 deasserted: the head begins. -/
theorem test_busyDeassert :
    (after (.busyDeassert .rl0) ((withQueue [outSet 1] false running).setBusy .rl0 true)).linkState
      .rl0 = .sending := by decide

/-- R159: a request at the head of a FREE processor's queue has been executed when the next event comes. -/
theorem test_due_request_is_executed_first :
    let t := after (.busyAssert .rl0) (asked 18 [1, 0] .reset)
    t.enabled .rl0 = true ∧ t.busy .rl0 = true ∧ t.command.requests = [] := by decide

/-- BUSY0 asserted leaves a transmission going on. -/
theorem test_busyAssert :
    (after (.busyAssert .rl0) (withQueue [outSet 0] true running)).linkState .rl0 = .sending := by
  decide

/-- INHIBIT: the SET in transmission is cut, the other dropped. -/
theorem test_inhibitAssert :
    let t := after .inhibitAssert (withQueue [outSet 0, outSet 1] true running)
    t.linkState .rl0 = .inhibited ∧ t.release.queue0.sets = [] ∧
    t.release.queue0.counters = { cut := 1, inhibitedDrops := 1 } := by decide

theorem test_inhibitDeassert :
    (after .inhibitDeassert (after .inhibitAssert (withQueue [] false running))).linkState .rl0
      = .idle := by decide

/-- A 33rd SET at a PAUSED link: the head is dropped, the flag set. -/
theorem test_releaseDrop :
    let t := handOver .rl0 (outSet 40) (withQueue ((List.range 32).map outSet) false running)
    t.release.queue0.sets.length = 32 ∧ t.release.queue0.sets.head?.map (·.index) = some 1 ∧
    t.flag .releaseDrop = true := by decide

/-- The view switch of 07: revision 4 at index 0 of the next second. -/
theorem test_boundarySwitch :
    let s := { assembling with views := { assembling.views with v2 :=
      { assembling.views.v2 with staged := some ⟨0, some view⟩ } } }
    ((boundarySwitch 1001 s).view .v2).revision = 4#16 ∧
    ((boundarySwitch 1001 s).view .v2).staged = none := by decide

/-! ## The Command Link and the notice queue: 09 and 10 -/

/-- The bytes of a READ_STATUS frame: taken as request 2 with host tag 7. -/
theorem test_requestFrame :
    let whole := readStatusContent ++ crcBytes readStatusContent
    (after (.requestFrame (whole.getLastD 0))
      (receiving (.frame 3 whole.dropLast) .reset)).command.requests = [⟨2, 7, []⟩] := by
  decide +kernel

/-- A Command Link byte that no marker begins is discarded. -/
theorem test_clByte :
    (after (.clByte 17) State.reset).command.counters.huntBytes = 1 := by decide

/-- A reply sent whole is counted, and the line is idle. -/
theorem test_clTransmissionEnd :
    let t := after .clTransmissionEnd (busyLine .reset)
    t.command.line = none ∧ t.command.counters.repliesSent = 1 := by decide

/-- The worked sequence of 10, first two rows: the first of the lowest priority is displaced; one of no
higher priority than the lowest is itself lost. -/
theorem test_noticeQueue :
    let q := [notice 3, notice 3, notice 2, notice 2, notice 2, notice 2, notice 2, notice 1,
      notice 1, notice 1, notice 1, notice 1, notice 1, { notice 0 with detail := 1 }, notice 0,
      notice 0]
    let t := raiseSource 3 .stalled (busyLine (withNotices q .reset))
    t.reporting.notices.map (·.priority) = [3, 3, 2, 2, 2, 2, 2, 1, 1, 1, 1, 1, 1, 1, 0, 0] ∧
    t.reporting.lostNotices = 1 ∧
    (raiseNotice .unknown .none 0 t).reporting.lostNotices = 2 ∧ t.alert = true := by decide

/-- The status of the last reply. -/
def replied (c : Instr) (s : State) : Option Status :=
  ((after c (busyLine s)).command.replies.getLast?).map (·.status)

/-- The result bytes of the last reply. -/
def result (c : Instr) (s : State) : Option (List Byte) :=
  ((after c (busyLine s)).command.replies.getLast?).map (·.result)

theorem test_unknownRequest :
    replied .unknownRequest (asked 29 [] .reset) = some .unknownRequest := by decide

/-- R181: part code 48 and revision 1, then the capacities 1,024, 256, 65,536, 8, 32, 16, 4. -/
theorem test_identify : result .identify (asked 1 [] .reset) =
    some ([48, 1] ++ be4 1024 ++ be4 256 ++ be4 65536 ++ be4 8 ++ be4 32 ++ be4 16 ++ be4 4) := by
  decide

/-- R180: the first byte is the operating state. -/
theorem test_readStatus :
    ((after .readStatus (busyLine (asked 2 [] running))).command.replies.getLast?.map
      fun r => r.result.take 2) = some [1, 0] := by decide

/-- R2: alignment rate 120 with the default Wcap code 5 is refused, rate 100 is not. -/
theorem test_configureGrid :
    replied .configureGrid (asked 3 [60, 120, 2] .reset) = some .badField ∧
    (after .configureGrid (asked 3 [50, 100, 200] .reset)).grid = ⟨50, 100, 16⟩ := by decide

/-- R116: Wmin above Wcap is refused. -/
theorem test_configureRelease :
    replied .configureRelease (asked 4 [0, 1, 0, 0, 0, 4, 147, 225, 0, 0, 0, 0, 0, 0] .reset) =
      some .badField ∧
    (after .configureRelease (asked 4 [1, 1, 0, 0, 0, 4, 147, 224, 0, 0, 0, 0, 255, 255]
      .reset)).window.config =
        { mode := .deadline, wait := .adaptive, fixedCode := 0, capCode := 0, minWait := 300000,
          margin := 0, lowWater := 32768 } := by
  decide +kernel

/-- R26: C 600, H 3; C 59 is out of range. -/
theorem test_configureTime :
    (after .configureTime (asked 5 [2, 88, 0, 2] .reset)).time.holdoverLimit = 3 ∧
    replied .configureTime (asked 5 [0, 59, 0, 2] .reset) = some .badField := by decide

/-- R25: pending in IDLE; outside IDLE only the expected next second is taken. -/
theorem test_setSecond :
    (after .setSecond (asked 6 [0, 0, 3, 233] .reset)).time.pendingSecond = some 1001 ∧
    replied .setSecond (asked 6 [0, 0, 3, 234] (clock 1000 3000000 running)) =
      some .timeConflict := by decide

/-- R50, R40: IL0 turned ON, mode ROUND_ROBIN, fairness limit 3. -/
theorem test_configureIngest :
    let t := after .configureIngest (asked 7 ([1, 0, 1, 0, 0, 0, 0] ++ List.replicate 15 0 ++ [1, 3])
      .reset)
    (t.link .il0).receiver = .hunt ∧ t.ingest.mode = .roundRobin ∧ t.ingest.fairness = 3 := by decide

/-- R47, R186: the number of frames, from 1 up, travels less one. -/
theorem test_readUnknownLog :
    let s := { State.reset with ingest := { State.reset.ingest with log := [⟨7777, .il1, 404, 1⟩] } }
    result .readUnknownLog (asked 8 [1] s) = some ([0, 1] ++ be2 7777 ++ [1] ++ be4 404 ++ be4 0) ∧
    (after .readUnknownLog (asked 8 [1] s)).ingest.log = [] := by decide

/-- The declaration of the worked sequence of 04: identifier 5,001 in the lowest UNUSED entry. -/
theorem test_declareSource :
    let t := after .declareSource (asked 9 ([0x13, 0x89, 1, 50] ++ beBytes 3 1000000 ++
      [3, 0, 0, 0, 1, 1, 5] ++ be4 6000 ++ [1, 15, 2, 1]) running)
    (t.entry 0).state = .declared ∧ (t.entry 0).shape.phasors = 4 ∧
    (t.entry 0).options.stallThreshold = 3 ∧ t.knownSource 5001 = some 0 := by decide

/-- AMEND_SOURCE to stall threshold 2 with a miss count of 2: STALLED (04, worked sequence). -/
theorem test_amendSource :
    let t := after .amendSource (asked 10 ([0x08, 0xFD, 1, 1, 5] ++ be4 6000 ++ [1, 15, 1, 1])
      (withEntry { source with missCount := 2 } running))
    (t.entry 3).state = .stalled ∧ (t.entry 3).missCount = 2 ∧ (t.entry 3).counters.stalls = 1 := by
  decide

/-- R165: the reply of the request that stalls a source is chosen before the notice it raises. -/
theorem test_amendSource_replies_first :
    let t := after .amendSource (asked 10 ([0x08, 0xFD, 1, 1, 5] ++ be4 6000 ++ [1, 15, 1, 1])
      (withEntry { source with missCount := 2 } running))
    t.command.line = some (.reply ⟨10, 7, .ok, 3 :: be4 2⟩) ∧
    t.reporting.notices.map (·.cls) = [.source] := by decide

/-- RETIRE_SOURCE with a sample in the window, and without one. -/
theorem test_retireSource :
    let e := { source with receipt := Receipt.enter 50000 .clear }
    ((after .retireSource (asked 11 [0x08, 0xFD]
      (withSlots [(50000, slot .opened)] (withEntry e running)))).entry 3).state = .retiring ∧
    ((after .retireSource (asked 11 [0x08, 0xFD] (withEntry e running))).entry 3).state =
      .unused := by decide

theorem test_suspendSource :
    ((after .suspendSource (asked 12 [0x08, 0xFD] (withEntry source running))).entry 3).state =
      .suspended := by decide

theorem test_resumeSource :
    ((after .resumeSource (asked 13 [0x08, 0xFD]
      (withEntry { source with state := .suspended } running))).entry 3).state = .declared := by
  decide

theorem test_readSource :
    ((result .readSource (asked 14 [1, 0, 3, 0] (withEntry source running))).map fun b => b.take 4) =
      some [0, 3, 0x08, 0xFD] ∧
    replied .readSource (asked 14 [1, 0, 4, 0] (withEntry source running)) = some .notFound := by
  decide

/-- STAGE_VIEW of 07: staged, and the shift 12 taken as 8. -/
theorem test_stageView :
    let f : List Byte := [2, 0, 0, 0, 0, 0, 7, 10, 1, 1, 1, 1, 12, 0, 1, 0, 0, 3, 0, 1, 0]
    let t := after .stageView (asked 15 f (withEntry source running))
    ((t.view .v2).staged.bind (·.content)).map (fun d => (d.divisor, d.shift, d.destination)) =
      some (10, 8, .rl1) := by decide

theorem test_cancelView :
    replied .cancelView (asked 16 [2] .reset) = some .notFound := by decide

theorem test_readView :
    ((result .readView (asked 17 [2, 0] assembling)).map fun b => b.take 4) =
      some [1, 1, 7, 5] := by decide

theorem test_configureReleaseLink :
    let t := after .configureReleaseLink (asked 18 [1, 0] .reset)
    t.linkState .rl0 = .idle ∧ t.linkState .rl1 = .disabled := by decide

theorem test_readReleaseLinks :
    (after .readReleaseLinks (asked 19 [1] (after (.transmissionEnd .rl0)
      (withQueue [outSet 0] true running)))).release.queue0.counters = {} := by decide

/-- R169: the horizon and the cadence mark become the current local instant. -/
theorem test_start :
    let t := after .start (asked 20 [] (quality .locked (clock 1000 130000 .reset)))
    t.reporting.opState = .running ∧ t.window.horizon = some 50001 ∧
    t.time.cadenceMark = some 50001 := by decide

/-- START with the time UNSET. -/
theorem test_start_noTime : replied .start (asked 20 [] .reset) = some .noTime := by decide

/-- R170: a STOP with nothing in the window ends its drain at once. -/
theorem test_stop :
    let t := after .stop (busyLine (asked 21 [] running))
    t.reporting.opState = .idle ∧ t.command.replies.length = 1 ∧ t.command.requests = [] := by decide

/-- R112, R170: with an unclosed slot the part drains and the reply waits. -/
theorem test_stop_drains :
    let t := after .stop (asked 21 [] (withSlots [(50000, slot .opened)] running))
    t.reporting.opState = .draining ∧ t.assembler.current = some 50000 ∧
    t.command.processor = .awaitingDrain := by decide

/-- R110: the slots up to the bound are closed with DEMAND. -/
theorem test_releaseThrough :
    let t := after .releaseThrough (asked 22 (be8 60000) (inMode .demand (withSlots
      [(49990, slot .opened), (50000, slot .ready), (50001, slot .opened)] running)))
    t.window.horizon = some 50000 ∧ t.window.counters.closedDemand = 2 := by decide

theorem test_readWindow :
    (result .readWindow (asked 23 (List.replicate 10 0) running)).map (fun b => b.take 9) =
      some (1 :: be8 49999) := by decide

/-- R171: in IDLE alone. -/
theorem test_resetWindow :
    replied .resetWindow (asked 24 [] running) = some .wrongState ∧
    (after .resetWindow (asked 24 [] (opState .idle assembling))).window.slots = [] := by decide

/-- R171: the SET on the Command Link is cut, the notice queue stands as it was, and the reply is chosen. -/
theorem test_resetWindow_replies_first :
    let t := after .resetWindow (asked 24 [] (opState .idle (withNotices [notice 3]
      { running with release := { running.release with
        commandQueue := { sets := [outSet 0, outSet 1], sending := true, counters := {} } } })))
    t.command.line = some (.reply ⟨24, 7, .ok, []⟩) ∧ t.reporting.notices = [notice 3] ∧
    t.release.commandQueue.counters.cut = 1 ∧ t.release.commandQueue.counters.flushed = 1 ∧
    t.release.commandQueue.sets = [] := by decide

/-- R162: the reset comes when the reply has been sent. -/
theorem test_resetDevice :
    let t := after .resetDevice (asked 25 [] running)
    t.time.second = 1000 ∧ (after .clTransmissionEnd t).time = .reset := by decide

theorem test_clearCounters :
    (after .clearCounters (asked 26 [] (after (.clByte 17) .reset))).command.counters = {} := by decide

/-- R178: the marked flag alone is cleared. -/
theorem test_clearFaults :
    let t := after .clearFaults (asked 27 [1, 0, 0, 0, 0, 0, 0, 0]
      (setFlag .storeExhausted (setFlag .overrun .reset)))
    t.flag .storeExhausted = false ∧ t.flag .overrun = true := by decide

/-- R176. -/
theorem test_setNotices :
    let t := after .setNotices (asked 28 ([1, 3] ++ List.replicate 18 0) .reset)
    t.reporting.classes.time = ⟨true, 3⟩ ∧ t.reporting.alertEnables = .all false := by decide

/-! ## Witnesses: states and operands that meet the hypotheses of each obligation, clause by clause,
at the boundary values of their ranges -/

/-- A request waiting at the head is about to be executed. -/
theorem asked_executes (code : Byte) (fields : List Byte) (s : State) (h : s.inReset = false)
    (hp : s.command.processor = .free) (hr : s.command.replies = []) :
    (asked code fields s).Executes code.toNat ⟨code, 7, fields⟩ [] :=
  ⟨h, hp, rfl, rfl, by show s.command.replies.length < _; rw [hr]; decide⟩

theorem witness_StepRunsTheFrontCommand :
    ({ State.reset with pending := [.start, .stop] }).pending = .start :: [.stop] := rfl

/-- In a sorted slot map, a slot with a property is one of the list with that property. -/
theorem slot_iff (s : State) (h : tableSorted s.window.slots) (q : Slot → Prop) (k : Nat) :
    (∃ x, s.slot? k = some x ∧ q x) ↔ ∃ p ∈ s.window.slots, k = p.1 ∧ q p.2 :=
  ⟨fun ⟨x, hx, hq⟩ => ⟨(k, x), mem_of_tableFind hx, rfl, hq⟩,
    fun ⟨p, hp, hk, hq⟩ => ⟨p.2, tableFind_of_mem h (hk ▸ hp), hq⟩⟩

/-- No execution is under way after a reset. -/
theorem witness_CommandsAnswerAndKeepTheQueue :
    State.reset.command.processor ≠ .executing := by decide

/-- A due request of the first row, the last row and a code outside the catalogue; the end of an assembly;
the check at its first grain; the cadence event at its instant; two expired slots at their deadline;
nothing due in the middle, and at the last grain, of a second; a clock at its last grain; a stopped one. -/
theorem witness_DueWorkIsTakenInOrderElseOneGrain :
    let done (s : State) : State := { s with time := { s.time with checkTaken := true } }
    let expired := done (clock 1000 300000
      (withSlots [(50000, slot .opened), (50001, slot .opened)] { running with
        time := { running.time with cadenceMark := some 50002 } }))
    (requestRows[0]? = some .identify ∧ requestRows[27]? = some .setNotices ∧
      (28#8).toNat = 27 + 1 ∧ 29 ≤ (29#8).toNat ∧ (asked 2 [] .reset).inReset = false ∧
      (asked 2 [] .reset).command.processor = .free ∧
      (asked 2 [] .reset).command.requests = [⟨2, 7, []⟩] ∧
      Instr.ppsEdge ∉ Instr.unknownRequest :: requestRows ∧
      Instr.ppsEdge ∉ [Instr.powerOn, .resetnAssert, .resetEnd]) ∧
    (assembled.AtRest ∧ assembled.pending = [] ∧ tableSorted assembled.window.slots ∧
      assembled.assembler.current = some 50000 ∧ assembled.assembler.nextView = none ∧
      assembling.assembler.nextView ≠ none) ∧
    ((clock 7 601 .reset).time.checkTaken = false ∧ (clock 7 601 .reset).assembler.current = none ∧
      7 * 6000000 + (clock 7 601 .reset).time.captureWindow + 1 ≤ 7 * 6000000 + 601) ∧
    ((done running).reporting.opState = .running ∧ (done running).AtRest ∧
      (done running).time.cadenceMark = some 49999 ∧
      (49999 + 1) * running.grid.period ≤ running.time.grains) ∧
    (expired.AtRest ∧ tableSorted expired.window.slots ∧
      expired.slot? 50000 = some (slot .opened) ∧ expired.slot? 50001 = some (slot .opened) ∧
      (slot .opened).unclosed = true ∧ (slot .opened).overdue = false ∧
      (slot .opened).deadline ≤ expired.time.grains ∧
      ¬(50002 + 1) * running.grid.period ≤ expired.time.grains) ∧
    (∀ f ∈ [5999998, 5999999],
      let s := done (clock 7 f .reset)
      s.pending = [] ∧ s.AtRest ∧ s.time.stopped = false ∧ s.time.fraction < 6000000 ∧
        s.window.slots = [] ∧ s.reporting.opState ≠ .running ∧ s.time.grains < lastGrain) ∧
    lastGrain ≤ (done (clock 4294967295 5999999 .reset)).time.grains ∧
    (after .localTimeStop (done (clock 4294967295 5999999 .reset))).time.stopped = true := by
  decide

/-- A command of a due request answers a next state. -/
theorem witness_DueWorkIsTakenInOrderElseOneGrain_next :
    exec .readStatus (asked 2 [] .reset) = .next (after .readStatus (asked 2 [] .reset)) := rfl

theorem witness_DeviceResetReturnsEveryBlock :
    (after .resetnAssert running).inReset = true ∧
    Instr.resetEnd ∈ [Instr.powerOn, .resetnAssert, .resetEnd] := by decide

theorem witness_ResetHoldsThePart :
    (after .powerOn running).inReset = true ∧
    Instr.start ∉ [Instr.powerOn, .resetnAssert, .resetEnd, .busyAssert .rl0, .busyAssert .rl1,
      .busyDeassert .rl0, .busyDeassert .rl1, .inhibitAssert, .inhibitDeassert] := by decide

/-- A slot in assembly and a CLOSED one that waits for the Assembler. -/
theorem witness_StepsKeepQueuesBounded :
    let s := withSlots [(50000, slot .assembling), (50001, slot .closed)] running
    let waiting := { s with
      window := { s.window with assemblyQueue := [50001] }
      assembler := { s.assembler with current := some 50000 } }
    waiting.Bounded ∧ (listening .hunt).Bounded ∧
      ∃ t, step { waiting with pending := [.ppsEdge] } = .next t :=
  ⟨by constructor <;> decide, by constructor <;> decide, _, rfl⟩

theorem witness_StepsConserveRecords :
    assembled.Conserved ∧ ∃ t, step { assembled with pending := [.assemblyEnd] } = .next t :=
  ⟨by constructor <;> decide, _, rfl⟩

theorem witness_StepsKeepTheClockInRange :
    (clock 4294967295 5999999 .reset).Clocked ∧
    ∃ t, step (clock 4294967295 5999999 .reset) = .next t :=
  ⟨by constructor <;> decide, _, rfl⟩

/-- Where local time has reached nothing that is still to be taken, nothing is delivered. -/
theorem delivers_nothing {s : State} (h : tableSorted s.window.slots)
    (he : s.reachedEvents.isEmpty = true) : s.Delivers s :=
  (delivers_iff h s).2 (by rw [List.isEmpty_iff.1 he]; rfl)

/-- The missing-PPS check taken. -/
def checked (s : State) : State := { s with time := { s.time with checkTaken := true } }

/-- The last fraction of the late side, the first of the early side, at C 600, with nothing reached; and
C 6,000, with the check of the second still to be taken: the edge finds it delivered. -/
theorem witness_InWindowEdgeSnapsLocalTime :
    let late := clock 7 600 State.reset
    let early := checked (clock 4294967294 5999400 { running with
      time := { running.time with cadenceMark := none } })
    let wide := { clock 7 5994000 State.reset with time :=
      { (clock 7 5994000 State.reset).time with captureWindow := 6000, pendingSecond := some 9 } }
    let u := after .missingPpsCheck wide
    (late.Delivers late ∧ early.Delivers early ∧ wide.Delivers u) ∧
    late.AtRest ∧ tableSorted late.window.slots ∧ late.time.captureWindow ≤ 6000 ∧
      late.time.fraction ≤ late.time.captureWindow ∧ 7 = late.time.second ∧
    early.AtRest ∧ tableSorted early.window.slots ∧
      6000000 - early.time.captureWindow ≤ early.time.fraction ∧ early.time.fraction ≤ 5999999 ∧
      early.time.second < 4294967295 ∧ 4294967295 = early.time.second + 1 ∧
      early.reporting.opState ≠ .idle ∧ early.time.pendingSecond = none ∧
    wide.AtRest ∧ u.AtRest ∧ wide.time.checkTaken = false ∧ u.time.checkTaken = true ∧
      6000000 - u.time.captureWindow ≤ u.time.fraction ∧ u.time.fraction ≤ 5999999 ∧
      u.time.captureWindow ≤ 6000 ∧ u.time.second < 4294967295 ∧
      u.time.pendingSecond = some 9 ∧ u.reporting.opState = .idle :=
  ⟨⟨delivers_nothing (by decide) (by decide), delivers_nothing (by decide) (by decide),
    (delivers_iff (by decide) _).2 rfl⟩, by decide⟩

/-- The first and last fraction outside the capture window; the last second; each run; with nothing
reached. -/
theorem witness_OutlierEdgesLengthenTheRunAndTheThirdActs :
    let run (n : Nat) (s : State) : State :=
      { s with time := { s.time with outlierRun := n, checkTaken := true, cadenceMark := none } }
    let first := run 1 (clock 7 601 .reset)
    let last := run 2 (clock 7 5999399 .reset)
    let held := run 2 (clock 1000 601 running)
    let free := run 2 (quality .freeRun (clock 4294967295 5999999 running))
    (first.Delivers first ∧ last.Delivers last ∧ held.Delivers held ∧ free.Delivers free) ∧
    (∀ s ∈ [first, last, held, free], s.AtRest ∧ tableSorted s.window.slots ∧
      s.time.captureWindow < s.time.fraction) ∧
    first.time.fraction < 6000000 - first.time.captureWindow ∧ first.time.outlierRun < 2 ∧
    last.time.fraction < 6000000 - last.time.captureWindow ∧ last.time.outlierRun = 2 ∧
      last.reporting.opState = .idle ∧ last.time.pendingSecond = none ∧
    held.reporting.opState ≠ .idle ∧ held.time.quality = .locked ∧
    free.time.second = 4294967295 ∧ free.reporting.opState ≠ .idle ∧
      free.time.quality = .freeRun :=
  ⟨⟨delivers_nothing (by decide) (by decide), delivers_nothing (by decide) (by decide),
    delivers_nothing (by decide) (by decide), delivers_nothing (by decide) (by decide)⟩,
    by decide⟩

/-- Fraction C + 1, in each quality; holdover seconds just below the limit and at it. -/
theorem witness_MissingPpsCheckActsOnTheQuality :
    let held (n : Nat) : State := quality .holdover
      { clock 7 601 .reset with time := { (clock 7 601 .reset).time with holdoverSeconds := n } }
    (held 59).AtRest ∧ (held 59).time.stopped = false ∧ (held 59).time.checkTaken = false ∧
      (held 59).time.captureWindow < (held 59).time.fraction ∧ (held 59).time.boundaryMark = false ∧
      (held 59).time.holdoverSeconds < (held 59).time.holdoverLimit ∧
    (held 60).time.holdoverLimit ≤ (held 60).time.holdoverSeconds ∧
    (clock 7 601 .reset).time.quality = .unset ∧
    (after .ppsEdge (clock 7 600 .reset)).time.boundaryMark = true := by decide

theorem witness_LocalTimeStopsAtItsLastGrain :
    (clock 4294967295 5999999 .reset).AtRest ∧
    (clock 4294967295 5999999 .reset).time.stopped = false ∧
    (after .localTimeStop (clock 4294967295 5999999 .reset)).time.stopped = true := by decide

/-- A span of 256 instants and one of 257. -/
theorem witness_RoomTestAllowsASpanOf256Instants :
    tableSorted [(10, slot .opened), (20, slot .opened)] ∧
    roomFor 265 [(10, slot .opened), (20, slot .opened)] = true ∧
    roomFor 266 [(10, slot .opened), (20, slot .opened)] = false := by decide

/-- No wait at all: ADAPTIVE with no margin, no least wait and no latency measured. -/
def noWait (s : State) : State :=
  { s with window := { s.window with
    config := { s.window.config with wait := .adaptive, margin := 0, minWait := 0 } } }

/-- Local time exactly at the instant time; with room, with a slot, and below the horizon; a deadline
beyond local time, and one exactly at it. -/
theorem witness_CadenceEventOpensTheSlotOfItsInstant :
    running.AtRest ∧ running.time.stopped = false ∧ running.reporting.opState = .running ∧
    running.time.cadenceMark = some 49999 ∧
    50000 * running.grid.period ≤ running.time.second * 6000000 + running.time.fraction ∧
    running.window.horizon = some 49999 ∧ running.slot? 50000 = none ∧
    roomFor 50000 running.window.slots = true ∧
    running.time.second * 6000000 + running.time.fraction < deadlineNow running 50000 ∧
    (noWait running).AtRest ∧ (noWait running).window.config.wait = .adaptive ∧
    50000 * running.grid.period + min (max (lmax running.sources + 0) 0)
      (waitGrains running.window.config.capCode) ≤
      running.time.second * 6000000 + running.time.fraction ∧
    (withSlots [(50000, slot .opened)] running).slot? 50000 ≠ none ∧
    ({ running with window := { running.window with horizon := some 50000 } }).window.horizon =
      some 50000 := by decide

/-- A slot older than the instant by 256, and one newer than it. -/
theorem witness_OverrunClosesOlderSlotsAndSkipsTheInstant :
    let s := withSlots [(49744, slot .opened), (50001, slot .opened)] running
    s.AtRest ∧ s.time.stopped = false ∧ s.reporting.opState = .running ∧
    tableSorted s.window.slots ∧ s.slot? 50000 = none ∧ roomFor 50000 s.window.slots = false ∧
    s.time.cadenceMark = some 49999 ∧ s.window.horizon = some 49999 ∧
    50000 * s.grid.period ≤ s.time.second * 6000000 + s.time.fraction ∧
    [49744].Pairwise (· < ·) ∧
    ∀ k, k ∈ [49744] ↔ k < 50000 ∧ ∃ x, s.slot? k = some x ∧ x.unclosed = true := by
  refine ⟨by decide, by decide, by decide, by decide, by decide, by decide, by decide, by decide,
    by decide, by decide, fun k => ?_⟩
  rw [slot_iff _ (by decide) (·.unclosed = true)]
  simp [withSlots, slot, Slot.unclosed]
  omega

/-- Local time exactly at the deadline, in each mode, with a READY slot older than the expired one. -/
theorem witness_DeadlineExpiryClosesTheSlotAndAllOlder :
    ∀ m ∈ [(ReleaseMode.early, CloseReason.complete), (.deadline, .deadline)],
      let s := clock 1000 300000 (inMode m.1
        (withSlots [(49999, slot .ready), (50000, slot .opened), (50001, slot .opened)] running))
      let closes := [(49999, m.2), (50000, .deadline)]
      s.AtRest ∧ s.time.stopped = false ∧ tableSorted s.window.slots ∧
      s.slot? 50000 = some (slot .opened) ∧ (slot .opened).unclosed = true ∧
      (slot .opened).overdue = false ∧
      (slot .opened).deadline ≤ s.time.second * 6000000 + s.time.fraction ∧
      s.window.config.mode ≠ .demand ∧ (closes.map (·.1)).Pairwise (· < ·) ∧
      ∀ k r, (k, r) ∈ closes ↔ k ≤ 50000 ∧ ∃ x, s.slot? k = some x ∧ x.unclosed = true ∧
        r = if s.window.config.mode = .early ∧ x.state = .ready then .complete else .deadline := by
  intro m hm
  fin_cases hm <;>
    refine ⟨by decide, by decide, by decide, by decide, by decide, by decide, by decide, by decide,
      by decide, fun k r => ?_⟩ <;>
    rw [slot_iff _ (by decide) (fun x => x.unclosed = true ∧
      r = if _ = ReleaseMode.early ∧ x.state = .ready then .complete else .deadline)] <;>
    simp [clock, inMode, withSlots, slot, Slot.unclosed] <;>
    exact ⟨by rintro (⟨rfl, rfl⟩ | ⟨rfl, rfl⟩) <;> simp,
      by rintro ⟨h, ⟨rfl, rfl⟩ | ⟨rfl, rfl⟩ | ⟨rfl, rfl⟩⟩ <;> first | omega | simp⟩

theorem witness_DeadlineExpiryInDemandModeMarksOverdue :
    let s := clock 1000 300000 (inMode .demand
      (withSlots [(50000, slot .opened), (50001, slot .opened)] running))
    s.AtRest ∧ tableSorted s.window.slots ∧ s.slot? 50000 = some (slot .opened) ∧
    s.slot? 50001 = some (slot .opened) ∧
    (slot .opened).deadline ≤ s.time.second * 6000000 + s.time.fraction ∧
    s.window.config.mode = .demand ∧ s.reporting.notices = [] := by decide

/-- The shortest and the longest length that an Ingest Link accepts. -/
theorem witness_ReceiverRecoversAnyFramedBody :
    8 ≤ (List.replicate 7 (0 : Byte)).length + 1 ∧
    (List.replicate 511 (0 : Byte)).length + 1 ≤ 512 ∧ 512 ≤ 65535 := by decide +kernel

theorem witness_FramedRequestEntersTheQueue :
    State.reset.AtRest ∧ State.reset.command.receiver = .hunt ∧
    State.reset.command.requests.length < 4 ∧ ([] : List Byte).length + 3 ≤ 65535 := by decide

/-- A link that is OFF, and each receiver state of both kinds of link; lengths 7, 8, 512 and 513, and 2
and 3. -/
theorem witness_OneByteWalksItsReceiver :
    State.reset.AtRest ∧ (State.reset.link .il1).on = false ∧
    (∀ r ∈ [Receiver.hunt, .marker, .length none, .length (some 2), .frame 8 []],
      (listening r).AtRest ∧ ((listening r).link .il1).on = true ∧
      ((listening r).link .il1).receiver = r) ∧
    (0#8).toNat * 256 + (7#8).toNat < 8 ∧ 8 ≤ (0#8).toNat * 256 + (8#8).toNat ∧
    (2#8).toNat * 256 + (0#8).toNat ≤ 512 ∧ 512 < (2#8).toNat * 256 + (1#8).toNat ∧
    ([] : List Byte).length + 1 < 8 + 4 ∧
    (∀ r ∈ [Receiver.hunt, .marker, .length none, .length (some 0), .frame 8 []],
      { State.reset with command := { State.reset.command with receiver := r } }.AtRest) ∧
    3 ≤ (0#8).toNat * 256 + (3#8).toNat ∧ (0#8).toNat * 256 + (2#8).toNat < 3 := by decide

/-- A frame one byte short, with a CRC that matches and one that does not; a filter that refuses it; a
full FIFO; an idle dispatcher. -/
theorem witness_WholeFrameIsCheckedFilteredAndQueued :
    let content : List Byte := 2 :: description
    let got := content ++ (crcBytes content).take 3
    let b := (crcBytes content).getLastD 0
    let s := listening (.frame 11 got)
    let idle := withEntry source (running.modifyLink .il1 fun k =>
      { k with on := true, receiver := .frame 11 got })
    got.length + 1 = 11 + 4 ∧ (got ++ [b]).take 11 = content ∧
    (got ++ [b]).drop 11 = crcBytes content ∧ (got ++ [b + 1]).drop 11 ≠ crcBytes content ∧
    s.AtRest ∧ (s.link .il1).on = true ∧ (s.link .il1).receiver = .frame 11 got ∧
    (s.link .il1).fifo.length < 8 ∧ s.ingest.dispatch ≠ none ∧
    (s.link .il1).filterMask = 0 ∧ s.flag .ingestOverflow = false ∧
    idle.ingest.dispatch = none ∧ (∀ m ∈ LinkId.all, (idle.link m).fifo = []) ∧
    idle.knownSource 2301 = some 3 ∧
    { idle with sources := [] }.knownSource 2301 = none ∧
    (2301#16).getLsbD 0 ≠ (0#16).getLsbD 0 ∧ (1#16).getLsbD 0 = true := by decide +kernel

/-- IL2 at the fairness limit behind IL0; no link at it; ROUND_ROBIN. -/
theorem witness_ArbiterChoosesByItsMode :
    let s := (running.modifyLink .il0 fun k => { k with fifo := [frame .measurement []] }).modifyLink
      .il2 fun k => { k with fifo := [frame .measurement []], passedOver := 4 }
    chooseLink s = some .il2 ∧ s.ingest.mode = .priority ∧ 0 < s.ingest.fairness ∧
    s.ingest.fairness ≤ (s.link .il2).passedOver ∧
    chooseLink { s with ingest := { s.ingest with mode := .roundRobin } } = some .il0 ∧
    chooseLink { s with ingest := { s.ingest with fairness := 5 } } = some .il0 ∧
    chooseLink running = none := by decide

/-- A known identifier and an unknown one, at the head of the link the arbiter chooses; a BUSY
dispatcher, a FREE one, and empty FIFOs. -/
theorem witness_GrantsFollowWhileTheDispatcherIsFree :
    let waits := running.modifyLink .il0 fun k => { k with fifo := [frame .measurement []] }
    let s := withEntry source waits
    (s.link .il0).fifo = frame .measurement [] :: [] ∧ chooseLink s = some .il0 ∧
    s.ingest.dispatch = none ∧ s.knownSource 2301 = some 3 ∧
    waits.knownSource 2301 = none ∧ (s.link .il1).fifo = [] ∧
    (dispatched .measurement [] waits).ingest.dispatch ≠ none ∧
    (∀ m ∈ LinkId.all, (running.link m).fifo = []) := by decide

/-- A logged identifier; an unlogged one with 15 entries and with 16. -/
theorem witness_UnknownFrameIsLogged :
    let log (n : Nat) : List LogEntry :=
      (List.range n).map fun k => ⟨BitVec.ofNat 16 (2300 + k), .il0, 9, 65535⟩
    let full : List LogEntry := (log 17).drop 2 ++ [⟨7, .il0, 1, 1⟩]
    (log 16).length ≤ 16 ∧ (∃ e ∈ log 16, e.id = (frame .measurement []).id) ∧
    (log 1).length < 16 ∧ (∀ e ∈ log 1, e.id ≠ (frame .measurement []).id) ∧
    (∀ e ∈ full, e.id ≠ (frame .measurement []).id) ∧ full.length = 16 := by decide

/-- f at TB, just below it, and at the carry of the last second; half a period. -/
theorem witness_TimestampGoesToTheNearestInstant :
    50 ∈ rateFamily 50 ∧ 0 < 16000000 ∧ 16000000 ≤ 16000000 ∧ 15999999 < 16000000 ∧
    4294967295 ≤ 4294967295 ∧ 6000000 * 16000000 ≤ 15999999 * 6000000 + 16000000 / 2 ∧
    toGrains 1000000 1700000000 980512 = some (1700000000, 5883072) ∧
    6000000 - periodOf 50 / 2 ≤ 5940000 ∧
    nearestInstant 50 5 5940000 = some (300, -60000) := by decide

/-- Arrival before the sample, at it, 10 s behind it, and later still; an estimate at m and above it; an
ACTIVE required entry, and none; the first and last wait code. -/
theorem witness_LatencyEstimatesMoveAndLmaxIsTheLargest :
    4 ≤ 5 ∧ 5 ≤ 60000005 ∧ 60000005 ≤ 5 + 60000000 ∧ 5 + 60000000 < 60000006 ∧
    7 = measuredLatency 12 5 ∧ 7 ≤ 7 ∧ 7 < 8 ∧
    source.state = .active ∧ source.options.required = true ∧
    lmax [(3, { source with latency := 9 })] = 9 ∧ lmax [] = 0 ∧
    waitGrains 0 = 300000 ∧ waitGrains 7 = 60000000 := by decide

theorem witness_OutputConversionsRoundAndSaturate :
    8 ≤ 8 ∧ outMagnitude .m16 8 16776831 < 65535 ∧ outMagnitude .m16 8 16776832 = 65535 := by decide

/-- An empty history; an instant above the newest; the lowest of the span, and one below it. -/
theorem witness_ReceiptHistoryKeepsItsSpan :
    Receipt.clear.newest = none ∧ (Receipt.enter 100 .clear).newest = some 100 ∧ 100 < 101 ∧
    37 ≤ 100 ∧ 100 < 37 + 64 ∧ 36 + 64 ≤ 100 := by decide

/-- A frame in dispatch of each outcome: an entry that no longer fits, and each of checks 1 to 5. -/
theorem witness_PlacementRefusesBeforeTheTimeIsKnown :
    let d : Dispatch := ⟨frame .measurement (sampleBody 1000 0), 3⟩
    let s := dispatched .measurement (sampleBody 1000 0) (withEntry source running)
    let short := dispatched .measurement [8, 253] (withEntry source running)
    let late := dispatched .measurement (sampleBody 1000 1000000) (withEntry source running)
    s.AtRest ∧ s.ingest.dispatch = some d ∧ d.frame.kind = .measurement ∧
    s.entry 3 = source ∧ source.id = d.frame.id ∧ source.state ≠ .unused ∧
    source.links.get .il0 = true ∧ source.links.get .il2 = false ∧
    s.reporting.opState = .running ∧ (opState .idle s).reporting.opState ≠ .running ∧
    (short.ingest.dispatch.map fun d => d.frame.body.length) = some 2 ∧
    (sampleBody 1000 0).length = 18 + 5 * source.shape.phasors + 2 * source.shape.analogs ∧
    (late.ingest.dispatch.map fun d =>
      toGrains source.shape.timeBase (fieldAt d.frame.body 2 4) (fieldAt d.frame.body 6 3)) =
      some none ∧
    ((withEntry { source with state := .retiring } running).entry 3).state = .retiring ∧
    ((withEntry { source with state := .suspended } running).entry 3).state = .suspended := by decide

/-- A sample past the first five checks. -/
theorem sample_places : (dispatched .measurement (sampleBody 1000 0)
    (withEntry source running)).Places ⟨frame .measurement (sampleBody 1000 0), 3⟩ source 50000 0 1000
      0 := by
  constructor <;> decide

/-- The same at each boundary: an offset at the tolerance and beyond it; the horizon and the instant
above it; the future limit; no room; no free record, with the flag clear. -/
theorem witness_PlacementRefusesByTheGridAndTheWindow :
    (∃ s d e n δ s' g, State.Places s d e n δ s' g ∧ δ.natAbs ≤ e.options.tolerance ∧
      s.window.horizon = some 49999 ∧ (∀ h, s.window.horizon = some h → h < n) ∧
      n ≤ s.time.grains / s.grid.period + s.grid.futureLimit ∧ s.slot? n = none) ∧
    nearestInstant 50 1000 6000 = some (50000, 6000) ∧
    nearestInstant 50 1000 6001 = some (50000, 6001) ∧
    (6001 : Int).natAbs > source.options.tolerance ∧
    (ownGridOffset 50 6001).natAbs > source.options.tolerance ∧
    (ownGridOffset 100 60000).natAbs ≤ source.options.tolerance ∧
    running.time.grains / running.grid.period + running.grid.futureLimit = 50002 ∧
    roomFor 50000 (withSlots [(49744, slot .opened)] running).window.slots = false ∧
    running.flag .storeExhausted = false :=
  ⟨⟨_, _, _, _, _, _, _, sample_places, by decide, by decide, by intro h e; cases e; decide,
    by decide, by decide⟩, by decide⟩

/-- Re-referencing applies to a valid sample with an offset, and not to one without an offset, nor to
one whose status has the top bit set. -/
theorem witness_RecordHoldsTheSample :
    source.options.reReference = true ∧ (6000 : Int) ≠ 0 ∧
    fieldAt (sampleBody 1000 1) 10 2 % 65536 < 32768 ∧
    ¬(fieldAt ((sampleBody 1000 1).set 10 0x80) 10 2 % 65536 < 32768) ∧
    (fillRecord 3 source (sampleBody 1000 1) ⟨50000, 6000, 6000006000⟩).reReferenced = true ∧
    (fillRecord 3 source (sampleBody 1000 0) ⟨50000, 0, 6000000000⟩).reReferenced = false := by
  decide

/-- A slot at its deadline; and one before it, a CLOSED one and an overdue one past it, and a stopped
clock. -/
theorem witness_AcceptedSampleJoinsItsSlot :
    let s := dispatched .measurement (sampleBody 1000 0) (withEntry source running)
    let x (f : Nat) (sl : Slot) : State := clock 1000 f (withSlots [(50000, sl)] running)
    ((x 300000 (slot .opened)).AtRest ∧
      (x 300000 (slot .opened)).slot? 50000 = some (slot .opened) ∧
      (slot .opened).unclosed = true ∧ (slot .opened).overdue = false ∧
      (x 300000 (slot .opened)).time.stopped = false ∧
      (slot .opened).deadline = (x 300000 (slot .opened)).time.grains ∧
      (x 299999 (slot .opened)).time.grains < (slot .opened).deadline ∧
      (x 300001 (slot .closed)).slot? 50000 = some (slot .closed) ∧
      (slot .closed).unclosed = false ∧
      ({ slot .opened with overdue := true } : Slot).overdue = true ∧
      (after .localTimeStop (clock 4294967295 5999999 .reset)).time.stopped = true) ∧
    s.Places ⟨frame .measurement (sampleBody 1000 0), 3⟩ source 50000 0 1000 0 ∧
    (0 : Int).natAbs ≤ source.options.tolerance ∧ s.window.horizon = some 49999 ∧
    50000 ≤ s.time.grains / s.grid.period + s.grid.futureLimit ∧ 0 < s.window.freeRecords ∧
    s.slot? 50000 = none ∧ roomFor 50000 s.window.slots = true ∧
    tableFind 3 (slot .opened).contributors = none :=
  ⟨by decide, sample_places, by decide⟩

/-- A description that changes the shape, one that does not fit the table, and one from a link outside
the set. -/
theorem witness_DescriptionIsCheckedAndApplied :
    let e := { source with options := { source.options with remoteAllowed := true } }
    let s := dispatched .description description (withEntry e running)
    s.AtRest ∧
    s.ingest.dispatch = some ⟨frame .description description, 3⟩ ∧
    s.entry 3 = e ∧ e.id = (frame .description description).id ∧ e.links.get .il0 = true ∧
    description.length = 10 ∧ fieldAt description 2 1 = s.grid.f0 ∧
    fieldAt description 3 1 ∈ rateFamily s.grid.f0 ∧ 1 ≤ fieldAt description 4 3 ∧
    fieldAt description 7 1 ≤ 15 ∧ fieldAt description 8 1 ≤ 8 ∧ fieldAt description 9 1 ≤ 1 ∧
    e.state = .active ∧ e.shape.rate ≠ fieldAt description 3 1 ∧
    source.options.remoteAllowed = false ∧ ([] : List Byte).length ≠ 10 := by decide

/-- Completion: a slot that holds the one expected source, one that does not, one whose instant expects no
source, and one already READY. The walk: a READY slot beside the horizon, one behind an OPEN slot, one
behind a skipped instant at the cadence mark. -/
theorem witness_CompletionIsEvaluatedAndWalkedInInstantOrder :
    let s := withSlots [(50000, slot .ready), (50001, slot .opened), (50002, slot .ready)] running
    let holding := { slot .opened with contributors := [(3, record)] }
    let t := withSlots [(50000, holding), (50001, slot .opened), (50002, slot .ready)]
      (withEntry source running)
    let gap := withSlots [(50001, slot .ready)] { running with
      time := { running.time with cadenceMark := some 50000 } }
    tableSorted s.window.slots ∧ s.window.config.mode = .early ∧ s.reporting.opState = .running ∧
    s.window.horizon = some 49999 ∧ s.slot? 50000 = some (slot .ready) ∧
    s.slot? 50002 = some (slot .ready) ∧
    tableSorted t.window.slots ∧ t.slot? 50000 = some holding ∧ holding.state = .opened ∧
    source.state = .active ∧ source.options.required = true ∧
    50000 % t.grid.rate * source.shape.rate % t.grid.rate = 0 ∧
    tableFind 3 holding.contributors = some record ∧
    tableFind 3 (slot .opened).contributors = none ∧ (slot .ready).state ≠ .opened ∧
    1 % 50 * 25 % 50 ≠ 0 ∧ t.slot? 50003 = none ∧
    gap.slot? 50000 = none ∧ gap.time.cadenceMark = some 50000 ∧
    gap.slot? 50001 = some (slot .ready) ∧ [50000].Pairwise (· < ·) := by decide

/-- The instants that the walk reaches there are 50,000 alone, behind an OPEN slot no other. -/
theorem witness_CompletionIsEvaluatedAndWalkedInInstantOrder_closes :
    let s := withSlots [(50000, slot .ready), (50001, slot .opened), (50002, slot .ready)] running
    ∀ k, k ∈ [50000] ↔ 49999 < k ∧ (∃ v, s.slot? k = some v ∧ v.state = .ready) ∧
      ∀ x, 49999 < x → x < k →
        (∃ v, s.slot? x = some v ∧ v.state = .ready) ∨
        (∀ v, s.slot? x = some v → v.unclosed = false) ∧
          ∃ m, s.time.cadenceMark = some m ∧ x ≤ m := by
  intro s k
  constructor
  · intro h
    obtain rfl := List.mem_singleton.1 h
    exact ⟨by decide, ⟨_, rfl, rfl⟩, fun x a b => by omega⟩
  · rintro ⟨above, ⟨v, hv, ready⟩, between⟩
    by_contra hk
    rcases between 50001 (by decide) (Nat.lt_of_le_of_ne (by
      simp only [List.mem_singleton] at hk; omega) fun e => by
        subst e; cases hv; cases ready) with ⟨w, hw, hr⟩ | ⟨hw, -⟩
    · cases hw; contradiction
    · exact absurd (hw _ rfl) (by decide)

/-- R59, R105: the ACTIVE required source in its list makes a slot READY, its absence does not. -/
theorem test_completion :
    let holding := { slot .opened with contributors := [(3, record)] }
    let t := withSlots [(50000, holding), (50001, slot .opened)] (withEntry source running)
    ((evaluateAll t).1.slot? 50000).map (·.state) = some .ready ∧
    ((evaluateAll t).1.slot? 50001).map (·.state) = some .opened := by decide

/-- Pressure holds one record below the low-water mark, and not at it; an unclosed slot, which is the
oldest, a CLOSED one, and an instant without a slot. -/
theorem witness_ClosesQueueTheSlotAndPressureRepeatsThem :
    let s (free : Nat) : State := withSlots [(49999, slot .closed), (50000, slot .opened)]
      { running with window := { running.window with freeRecords := free } }
    tableSorted (s 4095).window.slots ∧ (s 4095).pressureHolds = true ∧
    (s 4096).pressureHolds = false ∧ (s 4095).slot? 50000 = some (slot .opened) ∧
    (slot .opened).unclosed = true ∧ (s 4095).slot? 49999 = some (slot .closed) ∧
    (slot .closed).unclosed = false ∧ (s 4095).slot? 50001 = none ∧
    (∀ p ∈ (s 4095).window.slots, p.2.unclosed = true → 50000 ≤ p.1) := by decide

/-- R106: a close appends its slot to the Assembly Queue, moves the horizon and counts its reason. -/
theorem test_closeSlot :
    let t := closeSlot 50000 .overrun (withSlots [(50000, slot .opened)]
      { running with window := { running.window with assemblyQueue := [49999] } })
    t.window.assemblyQueue = [49999, 50000] ∧ t.window.horizon = some 50000 ∧
    t.window.counters.closedOverrun = 1 := by decide

/-- A miss that stalls, a held source below its limit and at it, an instant that is not expected; the pass
over an entry with a sample of its shape and of another, over one that stalls, over one not visited. -/
theorem witness_DispositionPassVisitsEveryEntryOnce :
    let late := { source with missCount := 9 }
    let s := { running with sources := [(3, source), (5, late), (6, { source with state := .retiring })] }
    source.visited = true ∧ 50000 % 50 * source.shape.rate % 50 = 0 ∧
    50001 % 50 * 25 % 50 ≠ 0 ∧ source.state = .active ∧ source.receipt.newest = none ∧
    late.missCount + 1 = source.options.stallThreshold ∧
    4 < source.options.holdLimit ∧ source.options.holdLimit ≤ 5 ∧
    tableSorted s.sources ∧ s.assembler.dispositions = [] ∧ (s.entry 6).visited = false ∧
    (s.entry 5).visited = true ∧ tableFind 3 [(3, record)] = some record ∧
    record.phasors.length = source.shape.phasors ∧ record.analogs.length = source.shape.analogs ∧
    record.phasors.length ≠ 2 ∧
    (late.dispose 50 50000 none none).1.state = .stalled ∧
    (source.dispose 50 50000 none none).1.state = .active := by decide

/-- R128: the pass at a source that stalls raises its notice and asks for the re-evaluation. -/
theorem test_dispositionPass :
    let s := { running with sources := [(3, source), (5, { source with missCount := 9 })] }
    let p := dispositionPass 50000 [(3, record)] (busyLine s)
    p.2 = true ∧ p.1.assembler.dispositions.map (·.source) = [3, 5] ∧ p.1.hold? 3 = some record ∧
    p.1.reporting.notices.map (·.subject) = [.source 5] := by decide

/-- A staged descriptor at its second, and with none asked for; the take at index 0 and off it, with a
stall in the pass and without one; an idle Assembler with nothing to take, and a busy one. -/
theorem witness_TakeSwitchesDueViewsAndMakesThePass :
    let s (e : Nat) := State.reset.modifyView .v2 fun w => { w with staged := some ⟨e, none⟩ }
    let t := withSlots [(50000, slot .closed), (50001, slot .opened)]
      { running with window := { running.window with assemblyQueue := [50000] } }
    ((s 1000).view .v2).staged = some ⟨1000, none⟩ ∧ 1000 ≤ 1000 ∧ 0 < 1001 ∧ 1000 < 1001 ∧
    ((s 0).view .v2).staged = some ⟨0, none⟩ ∧
    tableSorted t.window.slots ∧ t.assembler.current = none ∧ t.window.assemblyQueue = [50000] ∧
    t.slot? 50000 = some (slot .closed) ∧ (dispositionPass 50000 [] t).2 = false ∧
    (dispositionPass 50000 [] (withEntry { source with missCount := 9 } t)).2 = true ∧
    running.assembler.current = none ∧ running.window.assemblyQueue = [] ∧
    assembling.assembler.current ≠ none ∧ 50000 % running.grid.rate = 0 ∧
    50001 % running.grid.rate ≠ 0 := by decide

theorem witness_ViewsAreConsideredInOrder :
    ViewId.all.Nodup ∧ (considerViews 50000 ViewId.all assembling).assembler.nextView = some .v2 ∧
    50000 % assembling.grid.rate % view.divisor = 0 ∧ 50001 % assembling.grid.rate % view.divisor ≠ 0 :=
  by decide

/-- The whole SET of an assembly; an entry of each disposition; a list entry of the first phasor and no
analog, of a record that has the phasor and of one that lacks it. -/
theorem witness_WholeSetIsHandedOver :
    (assembling.AtRest ∧ assembling.assembler.current = some 50000 ∧
      assembling.assembler.nextView = some .v2 ∧ (assembling.view .v2).current = some view ∧
      (assembling.slot? 50000).bind (·.closeReason) = some .deadline ∧
      (setEntryBytes view ⟨3, 1, 0⟩ ⟨3, 2301, .absent⟩).length = 3 ∧
      (setEntryBytes view ⟨3, 1, 0⟩ ⟨3, 2301, .held record⟩).length = 14 + 4 ∧
      record.phasors.length = 1 ∧ { record with phasors := [] }.phasors.length ≤ 0) ∧
    [0].Pairwise (· < ·) ∧ (∀ k, k ∈ [0] ↔ (1#16).getLsbD k = true) ∧
    ([] : List Nat).Pairwise (· < ·) ∧ ∀ k, k ∈ ([] : List Nat) ↔ (0#8).getLsbD k = true := by
  refine ⟨by decide, by decide, fun k => ?_, by decide, fun k => by simp⟩
  by_cases h : k < 16
  · interval_cases k <;> decide
  · simp only [List.mem_singleton, BitVec.getLsbD_of_ge _ _ (Nat.le_of_not_lt h), Bool.false_eq_true,
      iff_false]
    omega

/-- A disabled link; INHIBIT; 31 SETs and 32, of a Release Link and of the Command Link. -/
theorem witness_HandOverAppendsOrMakesRoom :
    let command (n : Nat) : State := { running with release := { running.release with
      commandQueue := { sets := (List.range n).map outSet, sending := false, counters := {} } } }
    State.reset.enabled .rl0 = false ∧
    (after .inhibitAssert (withQueue [] false running)).pins.inhibit = true ∧
    (after .inhibitAssert (withQueue [] false running)).enabled .rl0 = true ∧
    (withQueue [] false running).enabled .rl0 = true ∧ RelId.rl0.destination = .rl0 ∧
    ((withQueue ((List.range 31).map outSet) true running).release.queue .rl0).sets.length < 32 ∧
    ((withQueue ((List.range 32).map outSet) true running).release.queue .rl0).sets =
      outSet 0 :: outSet 1 :: (List.range' 2 30).map outSet ∧
    (command 31).pins.inhibit = false ∧ ((command 31).release.queue .cl).sets.length < 32 ∧
    ((command 32).release.queue .cl).sets = outSet 0 :: outSet 1 :: (List.range' 2 30).map outSet ∧
    ((List.range' 2 30).map outSet).length = 30 := by decide

theorem witness_AssemblyEndReleasesTheSlot :
    assembled.AtRest ∧ assembled.assembler.current = some 50000 ∧
    assembled.assembler.nextView = none ∧ (assembled.slot? 50000).isSome = true ∧
    tableSorted assembled.window.slots ∧ assembled.windowBase = some 50000 ∧
    running.windowBase = none ∧
    ((withEntry { source with state := .retiring, receipt := Receipt.enter 50000 .clear }
      assembled).entry 3).receipt.newest = some 50000 := by decide

/-- A link in each of its states but IDLE: SENDING, PAUSED, DISABLED, INHIBITED. -/
theorem witness_ReleaseLinksSendBetweenBusyLooks :
    let sends := withQueue [outSet 0] true running
    let waits := withQueue [outSet 0] false running
    sends.AtRest ∧ sends.enabled .rl0 = true ∧ sends.pins.inhibit = false ∧
    (sends.release.queue .rl0).sending = true ∧ (sends.release.queue .rl0).sets = [outSet 0] ∧
    (waits.release.queue .rl0).sending = false ∧ (waits.release.queue .rl0).sets ≠ [] ∧
    running.enabled .rl1 = false ∧ waits.linkState .rl0 = .paused ∧
    (after .inhibitAssert sends).enabled .rl0 = true ∧
    (after .inhibitAssert sends).pins.inhibit = true := by decide

theorem witness_InhibitEmptiesTheReleaseQueues :
    let s := withQueue [outSet 0, outSet 1] true running
    s.AtRest ∧ (s.release.queue .rl0).sets = outSet 0 :: [outSet 1] ∧
    (s.release.queue .rl0).sending = true ∧ (s.release.queue .rl1).sending = false := by decide

/-- Settings at 0, 1 and 2. -/
theorem witness_ReleaseLinkSettingsSwitchAndFlush :
    (asked 18 [2, 1] (withQueue [outSet 0] true running)).Executes 18 ⟨18, 7, [2, 1]⟩ [] ∧
    (2#8).toNat ≤ 2 ∧ (0#8).toNat = 0 ∧ 2 < (3#8).toNat ∧
    (withQueue [outSet 0] true running).enabled .rl0 = true :=
  ⟨asked_executes 18 _ _ rfl rfl rfl, by decide⟩

/-- A frame one byte short; three requests and four, behind a STOP whose reply waits; seven replies and
eight. -/
theorem witness_RequestFrameIsTakenAnsweredOrDiscarded :
    let got := readStatusContent ++ (crcBytes readStatusContent).take 3
    let b := (crcBytes readStatusContent).getLastD 0
    let s (requests replies : Nat) : State :=
      { State.reset with command := { State.reset.command with
        receiver := .frame 3 got
        processor := .awaitingDrain
        requests := List.replicate requests ⟨2, 0, []⟩
        replies := List.replicate replies ⟨2, 0, .ok, []⟩ } }
    (s 3 7).AtRest ∧ (s 3 7).command.receiver = .frame 3 got ∧ got.length + 1 = 3 + 4 ∧
    (got ++ [b]).take 3 = 0x10 :: 2 :: 7 :: [] ∧
    (got ++ [b]).drop 3 = crcBytes readStatusContent ∧
    (got ++ [b + 1]).drop 3 ≠ crcBytes readStatusContent ∧
    (s 3 7).command.requests.length < 4 ∧ 4 ≤ (s 4 7).command.requests.length ∧
    (s 4 7).command.replies.length < 8 ∧ 8 ≤ (s 4 8).command.replies.length := by decide +kernel

/-- Each frame on the line; an idle line with each of the three to choose from; each processor state. -/
theorem witness_CommandLineSendsRepliesNoticesThenSets :
    let idle := { State.reset with command := { State.reset.command with
      replies := [⟨2, 0, .ok, []⟩] } }
    let stopped := { idle with command := { idle.command with
      processor := .awaitingDrain, requests := [⟨21, 7, []⟩] } }
    let sets := { running with release := { running.release with
      commandQueue := { sets := [outSet 0], sending := true, counters := {} } } }
    sets.AtRest ∧ sets.command.line = none ∧ sets.release.commandQueue.sending = true ∧
    sets.release.commandQueue.sets = [outSet 0] ∧
    (busyLine .reset).AtRest ∧
    (busyLine .reset).command.line = some (.reply ⟨2, 0, .ok, []⟩) ∧
    (after .resetDevice (asked 25 [] running)).AtRest ∧
    (after .resetDevice (asked 25 [] running)).command.processor = .awaitingReset ∧
    (after .resetDevice (asked 25 [] running)).command.line = some (.reply ⟨25, 7, .ok, []⟩) ∧
    idle.command.line = none ∧ idle.release.commandQueue.sending = false ∧
    idle.command.replies = [⟨2, 0, .ok, []⟩] ∧ idle.command.processor = .free ∧
    stopped.command.processor = .awaitingDrain ∧ stopped.reporting.opState ≠ .draining ∧
    (withNotices [notice 0] .reset).reporting.notices = [notice 0] := by decide

/-- Codes 0 and 29; a length one too long; a state that does not allow the request; a full reply list. -/
theorem witness_RefusedRequestsAreAnsweredAndChangeNothing :
    let full := { asked 2 [] .reset with command := { (asked 2 [] .reset).command with
      replies := List.replicate 8 ⟨2, 0, .ok, []⟩ } }
    (asked 0 [] .reset).Executes 0 ⟨0, 7, []⟩ [] ∧ (asked 29 [] .reset).Executes 29 ⟨29, 7, []⟩ [] ∧
    (asked 20 [0] .reset).Executes 20 ⟨20, 7, [0]⟩ [] ∧
    (asked 20 [] running).Executes 20 ⟨20, 7, []⟩ [] ∧
    (asked 15 (List.replicate 15 0) .reset).Executes 15 ⟨15, 7, List.replicate 15 0⟩ [] ∧
    (asked 20 [] running).reporting.opState ≠ .idle ∧
    (asked 22 [] .reset).reporting.opState ≠ .running ∧
    full.inReset = false ∧ full.command.processor = .free ∧
    full.command.requests = [⟨2, 7, []⟩] ∧ 8 ≤ full.command.replies.length :=
  ⟨asked_executes 0 _ _ rfl rfl rfl, asked_executes 29 _ _ rfl rfl rfl,
    asked_executes 20 _ _ rfl rfl rfl, asked_executes 20 _ _ rfl rfl rfl,
    asked_executes 15 _ _ rfl rfl rfl, by decide⟩

/-- A notice of each kind of subject; a queue with room and a full one, in transmit order; a notice above the lowest, and one at it; an idle
line, and the same in the midst of an execution; a masked class. -/
theorem witness_NoticesWaitInTransmitOrder :
    let full := busyLine (withNotices (List.replicate 15 (notice 2) ++ [notice 1]) .reset)
    (notice 0).subject = .none ∧
    [{ notice 0 with subject := .source 1023 }, { notice 0 with subject := .view .v7 },
      { notice 0 with subject := .ingest .il3 }, { notice 0 with subject := .queue .cl }].map
      (·.subject) = [.source 1023, .view .v7, .ingest .il3, .queue .cl] ∧
    full.lineBusy = true ∧
    full.reporting.notices.Pairwise (fun a b => b.priority ≤ a.priority) ∧
    16 ≤ full.reporting.notices.length ∧ (full.reporting.classes.get .source).masked = false ∧
    (full.reporting.classes.get .source).priority = 1 ∧
    (∃ m ∈ full.reporting.notices, m.priority < (full.reporting.classes.get .time).priority) ∧
    (∀ m ∈ full.reporting.notices, 1 ≤ m.priority) ∧
    (busyLine .reset).reporting.notices.length < 16 ∧
    State.reset.lineBusy = false ∧ State.reset.command.processor ≠ .executing ∧
    State.reset.command.replies = [] ∧ State.reset.reporting.notices = [] ∧
    (State.reset.withProcessor .executing).command.processor = .executing ∧
    ((after .setNotices (asked 28 (1 :: List.replicate 19 0) .reset)).reporting.classes.get
      .time).masked = true := by decide

/-- Each reading request in execution; clear options at 0, 1 and 2; a source and a view that are there. -/
theorem witness_ReadingRequestsReportAndClear :
    (∀ code f, (asked code f (withEntry source running)).Executes code.toNat ⟨code, 7, f⟩ []) ∧
    fieldAt [1] 0 1 = 1 ∧ 2 ≤ fieldAt [2] 0 1 ∧
    mappedEntry 2301 (withEntry source running).sources = some (3, source) ∧
    mappedEntry 2302 (withEntry source running).sources = none ∧
    fieldAt [0, 0xFF, 0xFE, 0] 1 2 ≤ 65534 ∧ fieldAt [1, 3, 255, 0] 1 2 ≤ 1023 ∧
    ((withEntry source running).entry 3).state ≠ .unused ∧
    fieldAt [7, 1] 0 1 = ViewId.v7.index ∧ 8 ≤ fieldAt [8, 1] 0 1 ∧
    (withSlots [(50000, slot .opened)] running).slot? (fieldAt (0 :: 1 :: be8 50000) 2 8) =
      some (slot .opened) ∧
    (withQueue [outSet 0] true running).release.queue0.sending = true :=
  ⟨fun code f => asked_executes code f _ rfl rfl rfl, by decide⟩

/-- A grid that the default waits allow, one they do not, and one in use; a Wmin at Wcap and above it. -/
theorem witness_GridAndReleaseConfigurationsAreCheckedAndSet :
    (asked 3 [60, 100, 2] .reset).Executes 3 ⟨3, 7, [60, 100, 2]⟩ [] ∧
    (asked 4 (List.replicate 14 0) .reset).Executes 4 ⟨4, 7, List.replicate 14 0⟩ [] ∧
    State.reset.reporting.opState = .idle ∧ 100 ∈ rateFamily 50 ∧
    waitGrains State.reset.window.config.capCode ≤ 200 * (6000000 / 100) ∧
    ¬ waitGrains State.reset.window.config.capCode ≤ 200 * (6000000 / 120) ∧
    (opState .idle running).window.horizon ≠ none ∧
    fieldAt [0, 0, 0, 0, 0, 4, 147, 224] 4 4 ≤ waitGrains 0 ∧
    ¬ fieldAt [0, 0, 0, 0, 0, 4, 147, 225] 4 4 ≤ waitGrains 0 :=
  ⟨asked_executes 3 _ _ rfl rfl rfl, asked_executes 4 _ _ rfl rfl rfl, by decide⟩

/-- C at 59, 60, 6,000 and 6,001, H at 3,600 and 3,601; the expected second, and one beyond the last. -/
theorem witness_TimeRequestsSetTheReference :
    (asked 5 [0, 60, 14, 15] .reset).Executes 5 ⟨5, 7, [0, 60, 14, 15]⟩ [] ∧
    (asked 6 [0, 0, 3, 233] running).Executes 6 ⟨6, 7, [0, 0, 3, 233]⟩ [] ∧
    fieldAt [0, 59, 0, 0] 0 2 < 60 ∧ 60 ≤ fieldAt [0, 60, 14, 15] 0 2 ∧
    fieldAt [23, 112, 0, 0] 0 2 ≤ 6000 ∧ 6000 < fieldAt [23, 113, 0, 0] 0 2 ∧
    fieldAt [0, 60, 14, 15] 2 2 + 1 ≤ 3600 ∧ 3600 < fieldAt [0, 60, 14, 16] 2 2 + 1 ∧
    (clock 7 100 State.reset).time.fraction ≤ State.reset.time.captureWindow ∧
    60 < (clock 7 100 State.reset).time.fraction ∧ State.reset.time.checkTaken = false ∧
    running.reporting.opState ≠ .idle ∧
    4294967295 < (clock 4294967295 601 State.reset).time.second + 1 :=
  ⟨asked_executes 5 _ _ rfl rfl rfl, asked_executes 6 _ _ rfl rfl rfl, by decide⟩

/-- READ and APPLY; a switch of 2 and a fairness limit of 16; a link that goes OFF and one that goes ON. -/
theorem witness_IngestConfigurationIsAppliedAndReported :
    (∀ f, (asked 7 f (listening .marker)).Executes 7 ⟨7, 7, f⟩ []) ∧
    (List.replicate 24 (1 : Byte)).length = 24 ∧
    fieldAt (List.replicate 24 1) 23 1 ≤ 15 ∧ 16 ≤ fieldAt (List.replicate 24 16) 23 1 ∧
    2 ≤ fieldAt (List.replicate 24 2) (2 + 5 * LinkId.il3.index) 1 ∧
    ((listening .marker).link .il1).on = true ∧ ((listening .marker).link .il0).on = false ∧
    ((listening .marker).link .il1).receiver = .marker :=
  ⟨fun f => asked_executes 7 f _ rfl rfl rfl, by decide⟩

/-- Identifiers at both ends; the defaults and each option at its greatest value; an entry in use. -/
theorem witness_DeclarationTakesTheLowestUnusedEntry :
    let f : List Byte := [0xFF, 0xFE, 15, 50, 0, 0, 1, 15, 8, 1, 0, 1, 1, 255] ++ be4 3000000 ++
      [1, 15, 254, 1]
    (∀ s, s = withEntry source running → (asked 9 f s).Executes 9 ⟨9, 7, f⟩ []) ∧
    f.length = 22 ∧ fieldAt f 0 2 ≤ 65534 ∧ 1 ≤ fieldAt f 2 1 ∧ fieldAt f 2 1 ≤ 15 ∧
    fieldAt f 3 1 ∈ rateFamily running.grid.f0 ∧ 1 ≤ fieldAt f 4 3 ∧ fieldAt f 7 1 ≤ 15 ∧
    fieldAt f 8 1 ≤ 8 ∧ fieldAt f 10 1 = 0 ∧ fieldAt f 14 4 ≤ 3000000 ∧ fieldAt f 20 1 ≤ 254 ∧
    65534 < fieldAt [0xFF, 0xFF] 0 2 ∧
    (running.entry 0).state = .unused ∧
    (∀ p ∈ (withEntry source running).sources, p.2.state ≠ .unused ∧ p.2.id = 2301) := by
  refine ⟨fun s h => ?_, by decide⟩
  subst h; exact asked_executes 9 _ _ rfl rfl rfl

/-- A threshold at the miss count and above it; each entry state. -/
theorem witness_AmendmentWritesTheOptionsAndMovesTheMissCount :
    let f : List Byte := [0x08, 0xFD, 1, 1, 5] ++ be4 3000000 ++ [1, 15, 1, 1]
    (∀ e, (asked 10 f (withEntry e running)).Executes 10 ⟨10, 7, f⟩ []) ∧
    f.length = 13 ∧ fieldAt f 5 4 ≤ 3000000 ∧ fieldAt f 10 1 ≤ 15 ∧ fieldAt f 11 1 ≤ 254 ∧
    (withEntry source running).knownSource (BitVec.ofNat 16 (fieldAt f 0 2)) = some 3 ∧
    running.knownSource (BitVec.ofNat 16 (fieldAt f 0 2)) = none ∧
    fieldAt f 11 1 + 1 ≤ ({ source with missCount := 2 }).missCount ∧
    ({ source with missCount := 1 }).missCount < fieldAt f 11 1 + 1 ∧
    fieldAt f 11 1 + 1 ≠ source.options.stallThreshold :=
  ⟨fun _ => asked_executes 10 _ _ rfl rfl rfl, by decide⟩

theorem witness_SuspendResumeAndRetireMoveTheEntryState :
    (∀ code e, (asked code [0x08, 0xFD] (withEntry e running)).Executes code.toNat
      ⟨code, 7, [0x08, 0xFD]⟩ []) ∧
    (withEntry source running).knownSource (BitVec.ofNat 16 (fieldAt [0x08, 0xFD] 0 2)) = some 3 ∧
    (withEntry { source with state := .suspended } running).knownSource 2301 = some 3 ∧
    running.knownSource 2301 = none ∧
    mappedEntry 2301 (withEntry { source with state := .retiring } running).sources =
      some (3, { source with state := .retiring }) ∧
    (withEntry { source with state := .retiring } running).knownSource 2301 = none ∧
    mappedEntry 2301 (withEntry { source with state := .unused } running).sources = none ∧
    (view.sources.any fun x => x.source = 3) = true ∧
    (withSlots [(50000, slot .opened)] running).windowBase = some 50000 ∧
    (Receipt.enter 50000 .clear).newest = some 50000 :=
  ⟨fun code _ => asked_executes code _ _ rfl rfl rfl, by decide⟩

/-- A descriptor of one entry for view 7, and the same with a tag of 0; a retire mark; view 8. -/
theorem witness_ViewRequestsStageAndCancel :
    let f (tag : Byte) : List Byte :=
      [7, 0, 0, 0, 0, 0, tag, 50, 2, 1, 1, 1, 255, 1, 1, 0, 0, 3, 0xFF, 0xFF, 0xFF]
    (∀ f, (asked 15 f (withEntry source running)).Executes 15 ⟨15, 7, f⟩ []) ∧
    (asked 16 [7] running).Executes 16 ⟨16, 7, [7]⟩ [] ∧
    16 ≤ (f 255).length ∧ (f 255).length = 16 + 5 * (fieldAt (f 255) 15 1 + 1) ∧
    descriptorValid 50 (f 255) = true ∧ descriptorValid 50 (f 0) = false ∧
    fieldAt (f 255) 0 1 = ViewId.v7.index ∧
    (withEntry source running).listedKnown (descriptorOf (f 255)) = true ∧
    running.listedKnown (descriptorOf (f 255)) = false ∧
    (descriptorOf (f 255)).tag = fieldAt (f 255) 6 1 ∧ (descriptorOf (f 255)).shift = 8 ∧
    (descriptorOf (f 255)).sources = [⟨3, 0xFFFF, 0xFF⟩] ∧
    8 ≤ fieldAt [8] 0 1 ∧ (running.view .v7).staged = none ∧
    ((running.modifyView .v7 fun w => { w with staged := some ⟨0, none⟩ }).view .v7).staged ≠ none :=
  ⟨fun f => asked_executes 15 f _ rfl rfl rfl, asked_executes 16 _ _ rfl rfl rfl, by decide⟩

/-- START with and without the time; STOP; a bound at a slot, above every slot and below them, with the
slots that each closes; a drain that ends with seven replies and with eight, and one that does not. -/
theorem witness_StartStopAndReleaseThroughMoveTheWindow :
    let s := inMode .demand
      (withSlots [(49999, slot .closed), (50000, slot .opened), (50001, slot .opened)] running)
    tableSorted s.window.slots ∧
    (asked 20 [] .reset).Executes 20 ⟨20, 7, []⟩ [] ∧ (asked 21 [] s).Executes 21 ⟨21, 7, []⟩ [] ∧
    (asked 22 (be8 50000) s).Executes 22 ⟨22, 7, be8 50000⟩ [] ∧
    State.reset.reporting.opState = .idle ∧ State.reset.time.quality = .unset ∧
    (opState .idle running).time.quality ≠ .unset ∧ s.reporting.opState = .running ∧
    (be8 50000).length = 8 ∧ s.window.config.mode = .demand ∧
    min (fieldAt (be8 60000) 0 8) (s.time.grains / s.grid.period) = 50000 ∧
    s.slot? 50000 = some (slot .opened) ∧ s.Bounded ∧
    ([50000, 50001].Pairwise (· < ·) ∧
      ∀ k, k ∈ [50000, 50001] ↔ ∃ x, s.slot? k = some x ∧ x.unclosed = true) ∧
    ([50000].Pairwise (· < ·) ∧ ∀ k, k ∈ [50000] ↔
      k ≤ 50000 ∧ ∃ x, s.slot? k = some x ∧ x.unclosed = true) ∧
    (∀ k, k ∈ ([] : List Nat) ↔ k ≤ 49999 ∧ ∃ x, s.slot? k = some x ∧ x.unclosed = true) ∧
    (∀ n ∈ [7, 8],
      let d := opState .draining { running with command := { running.command with
        processor := .awaitingDrain
        requests := [⟨21, 7, []⟩]
        replies := List.replicate n ⟨2, 0, .ok, []⟩ } }
      d.reporting.opState = .draining ∧ d.window.assemblyQueue = [] ∧
      d.assembler.current = none ∧ d.command.processor = .awaitingDrain ∧
      (d.command.replies.length < 8 ∨ 8 ≤ d.command.replies.length) ∧
      d.command.requests = [⟨21, 7, []⟩]) ∧
    assembling.assembler.current ≠ none :=
  have mem (k : Nat) := slot_iff (inMode .demand (withSlots
    [(49999, slot .closed), (50000, slot .opened), (50001, slot .opened)] running)) (by decide)
    (·.unclosed = true) k
  ⟨by decide, asked_executes 20 _ _ rfl rfl rfl, asked_executes 21 _ _ rfl rfl rfl,
    asked_executes 22 _ _ rfl rfl rfl, by decide, by decide, by decide, by decide, by decide,
    by decide, by decide, by decide, by constructor <;> decide,
    ⟨by decide, fun k => by rw [mem k]; simp [inMode, withSlots, slot, Slot.unclosed]⟩,
    ⟨by decide, fun k => by rw [mem k]; simp [inMode, withSlots, slot, Slot.unclosed]; omega⟩,
    fun k => by rw [mem k]; simp [inMode, withSlots, slot, Slot.unclosed]; omega, by decide⟩

/-- Each request in execution, in IDLE for RESET_WINDOW; marks of 1 and 2; a priority of 3 and 4. -/
theorem witness_ResetsAndClearsActOnWhatTheyName :
    (∀ code f, (asked code f (opState .idle assembling)).Executes code.toNat ⟨code, 7, f⟩ []) ∧
    ((withQueue [outSet 0, outSet 1] true running).release.queue .rl0).sets = [outSet 0, outSet 1] ∧
    ((withQueue [outSet 0, outSet 1] true running).release.queue .cl).sending = false ∧
    (opState .idle assembling).reporting.opState = .idle ∧
    (List.replicate 8 (1 : Byte)).length = 8 ∧ fieldAt (List.replicate 8 1) 7 1 ≤ 1 ∧
    2 ≤ fieldAt (List.replicate 8 2) 7 1 ∧ (List.replicate 20 (1 : Byte)).length = 20 ∧
    fieldAt ([1, 3] ++ List.replicate 18 0) 1 1 ≤ 3 ∧
    ¬ fieldAt ([1, 4] ++ List.replicate 18 0) 1 1 ≤ 3 :=
  ⟨fun code f => asked_executes code f _ rfl rfl rfl, by decide⟩

end Sys2Proof.Tests
end

/-! Rounding to the nearest whole number, and the two rules of the grid's arithmetic that rest on it:
the rotation of a phasor angle (R10) and the output conversions (R15, R16). -/

namespace Sys2Proof.Machine

/-! ## The nearest whole quotient -/

/-- `a / d` rounded to the nearest whole number, halves up. -/
def nearestQuotient (a d : Nat) : Nat := (a + d / 2) / d

theorem nearestQuotient_bounds (a : Nat) {d : Nat} (hd : 0 < d) :
    2 * d * nearestQuotient a d ≤ 2 * a + d ∧ 2 * a < 2 * d * nearestQuotient a d + d := by
  have split := Nat.div_add_mod (a + d / 2) d
  have rest := Nat.mod_lt (a + d / 2) hd
  rw [Nat.mul_assoc, nearestQuotient]
  omega

@[simp] theorem nearestQuotient_zero {d : Nat} (hd : 0 < d) : nearestQuotient 0 d = 0 := by
  rw [nearestQuotient, Nat.zero_add, Nat.div_eq_of_lt (Nat.div_lt_self hd (by decide))]

/-! ## The rotation -/

/-- `n` over a full turn of 6 × 10^9, rounded to the nearest with halves away from zero (R10, step 2). -/
def roundedTurn (n : Int) : Int := n.sign * nearestQuotient n.natAbs 6000000000

theorem rotation_eq_neg_roundedTurn (deviation offset : Int) :
    rotation deviation offset = -roundedTurn (deviation * offset * 65536) := by
  unfold rotation roundedTurn nearestQuotient
  generalize deviation * offset * 65536 = n
  obtain neg | rfl | pos := Int.lt_trichotomy n 0
  · simp [Int.sign_eq_neg_one_of_neg neg, Int.not_le.mpr neg]
  · simp
  · simp [Int.sign_eq_one_of_pos pos, Int.le_of_lt pos]

theorem roundedTurn_neg (n : Int) : roundedTurn (-n) = -roundedTurn n := by
  simp [roundedTurn, Int.sign_neg]

theorem roundedTurn_natCast (m : Nat) : roundedTurn m = nearestQuotient m 6000000000 := by
  obtain rfl | pos := m.eq_zero_or_pos
  · simp [roundedTurn]
  · simp [roundedTurn, Int.sign_natCast_of_ne_zero pos.ne']

/-- The rounding error is at most a half, and at a half the rounded value is the one further from zero. -/
theorem roundedTurn_nearest (n : Int) :
    2 * (roundedTurn n * 6000000000 - n).natAbs ≤ 6000000000 ∧
    (2 * (roundedTurn n * 6000000000 - n).natAbs = 6000000000 →
      n.natAbs < (roundedTurn n * 6000000000).natAbs) := by
  obtain ⟨m, rfl | rfl⟩ := n.eq_nat_or_neg
  all_goals
    have bounds := nearestQuotient_bounds m (d := 6000000000) (by decide)
    simp only [roundedTurn_neg, roundedTurn_natCast]
    omega

theorem rotation_neg_right (deviation offset : Int) :
    rotation deviation (-offset) = -rotation deviation offset := by
  simp only [rotation_eq_neg_roundedTurn, Int.mul_neg, Int.neg_mul, roundedTurn_neg]

theorem rotation_neg_left (deviation offset : Int) :
    rotation (-deviation) offset = -rotation deviation offset := by
  simp only [rotation_eq_neg_roundedTurn, Int.neg_mul, roundedTurn_neg]

theorem rotate_toNat (angle : Word16) (turn : Int) :
    ((rotate angle turn).toNat : Int) = ((angle.toNat : Int) + turn) % 65536 := by
  rw [rotate, BitVec.toNat_ofInt]
  exact Int.toNat_of_nonneg (Int.emod_nonneg _ (by decide))

theorem rotate_neg_cancel (angle : Word16) (turn : Int) :
    rotate (rotate angle turn) (-turn) = angle := by
  have first := rotate_toNat angle turn
  have second := rotate_toNat (rotate angle turn) (-turn)
  apply BitVec.eq_of_toNat_eq
  omega

/-- Settles O27: the rotation is the negated rounded turn, which is nearest and odd; angles add modulo 65,536. -/
theorem rotationTurnsTheAngleBack : Obligations.RotationTurnsTheAngleBack := by
  intro deviation offset angle
  obtain ⟨nearest, tie⟩ := roundedTurn_nearest (deviation * offset * 65536)
  have rotated := rotation_eq_neg_roundedTurn deviation offset
  refine ⟨by omega, by omega, rotation_neg_right .., rotation_neg_left .., rotate_toNat .., ?_⟩
  rw [rotation_neg_right, rotate_neg_cancel]

/-! ## The output conversions -/

/-- The reduction by a full turn never acts: the greatest angle rounds to 35,999. -/
theorem centidegrees_eq (angle : Word16) :
    centidegrees angle = nearestQuotient (angle.toNat * 36000) 65536 := by
  have := angle.isLt
  exact Nat.mod_eq_of_lt (by omega)

theorem centidegrees_lt (angle : Word16) : centidegrees angle < 36000 :=
  Nat.mod_lt _ (by decide)

theorem shiftedMagnitude_eq (shift magnitude : Nat) :
    shiftedMagnitude shift magnitude = min 65535 (nearestQuotient magnitude (2 ^ shift)) := by
  cases shift with
  | zero => simp [shiftedMagnitude, nearestQuotient]
  | succ k => simp [shiftedMagnitude, nearestQuotient, Nat.pow_succ]

theorem shiftedMagnitude_le (shift magnitude : Nat) : shiftedMagnitude shift magnitude ≤ 65535 :=
  Nat.min_le_left ..

theorem shiftedMagnitude_nearest {shift magnitude : Nat}
    (below : shiftedMagnitude shift magnitude < 65535) :
    2 * 2 ^ shift * shiftedMagnitude shift magnitude ≤ 2 * magnitude + 2 ^ shift ∧
    2 * magnitude < 2 * 2 ^ shift * shiftedMagnitude shift magnitude + 2 ^ shift := by
  have unsaturated : shiftedMagnitude shift magnitude = nearestQuotient magnitude (2 ^ shift) := by
    rw [shiftedMagnitude_eq] at below ⊢
    omega
  rw [unsaturated]
  exact nearestQuotient_bounds magnitude (Nat.two_pow_pos shift)

theorem shiftedMagnitude_saturated {shift magnitude : Nat}
    (saturated : shiftedMagnitude shift magnitude = 65535) :
    2 * 2 ^ shift * 65535 ≤ 2 * magnitude + 2 ^ shift := by
  have reached : 65535 ≤ nearestQuotient magnitude (2 ^ shift) := by
    rw [shiftedMagnitude_eq] at saturated
    omega
  exact (Nat.mul_le_mul_left _ reached).trans
    (nearestQuotient_bounds magnitude (Nat.two_pow_pos shift)).1

/-- Settles O29: both conversions are nearest quotients, by 65,536 / 36,000 and by 2^shift; the angle needs no
full turn taken off, and the magnitude is cut at 65,535. -/
theorem outputConversionsRoundAndSaturate : Obligations.OutputConversionsRoundAndSaturate := by
  intro angle magnitude shift _
  have nearestAngle := nearestQuotient_bounds (angle.toNat * 36000) (d := 65536) (by decide)
  rw [← centidegrees_eq] at nearestAngle
  refine ⟨rfl, centidegrees_lt angle, ⟨0, .inl rfl, ?_⟩, rfl, shiftedMagnitude_le ..,
    shiftedMagnitude_nearest, shiftedMagnitude_saturated⟩
  simp only [outAngle]
  omega

end Sys2Proof.Machine

/-! Reception byte by byte (R33 to R35, R156), the choice of the Ingest Arbiter (R41 to R43), and the
Unknown Source Log (R46 to R48). -/

namespace Sys2Proof.Machine

/-! ## Changes to one Ingest Link -/

theorem State.modifyLink_modifyLink (s : State) (l : LinkId) (g h : IngestLink → IngestLink) :
    (s.modifyLink l g).modifyLink l h = s.modifyLink l fun k => h (g k) := by
  cases l <;> rfl

/-- Only what the change makes of the link as it stands counts. -/
theorem State.modifyLink_congr {s : State} {l : LinkId} {g h : IngestLink → IngestLink}
    (agree : g (s.link l) = h (s.link l)) : s.modifyLink l g = s.modifyLink l h := by
  rw [State.modifyLink, agree, ← State.modifyLink]

/-! ## One byte of the walk (R34, R35) -/

section
variable {low high : Nat} {b first : Byte} {n : Nat} {got : List Byte}

theorem take_hunt_marker (mark : b = 0xA5#8) :
    Receiver.hunt.take low high b = (.marker, .nothing) := if_pos mark

theorem take_hunt_other (other : b ≠ 0xA5#8) :
    Receiver.hunt.take low high b = (.hunt, .discarded 1) := if_neg other

theorem take_marker_second (mark : b = 0x5A#8) :
    Receiver.marker.take low high b = (.length none, .nothing) := if_pos mark

theorem take_marker_first (mark : b = 0xA5#8) :
    Receiver.marker.take low high b = (.marker, .discarded 1) := by
  subst mark; rfl

theorem take_marker_other (notSecond : b ≠ 0x5A#8) (notFirst : b ≠ 0xA5#8) :
    Receiver.marker.take low high b = (.hunt, .discarded 2) :=
  (if_neg notSecond).trans (if_neg notFirst)

theorem take_length_first : (Receiver.length none).take low high b = (.length (some b), .nothing) :=
  rfl

theorem beNat_pair (x y : Byte) : beNat [x, y] = x.toNat * 256 + y.toNat := by
  simp [beNat]

theorem take_length_accepted (least : low ≤ first.toNat * 256 + b.toNat)
    (greatest : first.toNat * 256 + b.toNat ≤ high) :
    (Receiver.length (some first)).take low high b =
      (.frame (first.toNat * 256 + b.toNat) [], .nothing) := by
  rw [← beNat_pair] at least greatest ⊢
  exact if_pos ⟨least, greatest⟩

theorem take_length_refused
    (outside : first.toNat * 256 + b.toNat < low ∨ high < first.toNat * 256 + b.toNat) :
    (Receiver.length (some first)).take low high b = (.hunt, .badLength) := by
  rw [← beNat_pair] at outside
  exact if_neg (by omega)

theorem take_frame_short (short : got.length + 1 < n + 4) :
    (Receiver.frame n got).take low high b = (.frame n (got ++ [b]), .nothing) :=
  if_pos (by simpa using short)

end

/-! ## A byte that completes no frame -/

/-- What a byte counts on an Ingest Link (R34, R35). -/
def LinkCounters.received (c : LinkCounters) : Received → LinkCounters
  | .nothing | .whole _ _ => c
  | .discarded n => { c with huntBytes := min (c.huntBytes + n) 4294967295 }
  | .badLength => { c with lengthError := min (c.lengthError + 1) 4294967295 }

/-- What a byte counts on the Command Link (R156). -/
def CommandCounters.received (c : CommandCounters) : Received → CommandCounters
  | .nothing | .whole _ _ => c
  | .discarded n => { c with huntBytes := min (c.huntBytes + n) 4294967295 }
  | .badLength => { c with lengthError := min (c.lengthError + 1) 4294967295 }

theorem ingestByte_off {s : State} {l : LinkId} (off : (s.link l).on = false) (b : Byte) :
    ingestByte l b s = s := by
  simp [ingestByte, off]

theorem ingestByte_unfinished {s : State} {l : LinkId} {b : Byte} {r : Receiver} {x : Received}
    (on : (s.link l).on = true) (taken : (s.link l).receiver.take 8 512 b = (r, x))
    (unfinished : ∀ content crc, x ≠ .whole content crc) :
    ingestByte l b s =
      s.modifyLink l fun k => { k with receiver := r, counters := k.counters.received x } := by
  have taken : (s.link l).receiver.take ingestLow ingestHigh b = (r, x) := taken
  simp only [ingestByte, on, taken, if_true]
  cases x with
  | nothing => rfl
  | discarded n => exact s.modifyLink_modifyLink ..
  | badLength => exact s.modifyLink_modifyLink ..
  | whole content crc => exact absurd rfl (unfinished content crc)

theorem commandByte_unfinished {s : State} {b : Byte} {r : Receiver} {x : Received}
    (taken : s.command.receiver.take 3 65535 b = (r, x))
    (unfinished : ∀ content crc, x ≠ .whole content crc) :
    commandByte b s = { s with command := { s.command with
      receiver := r, counters := s.command.counters.received x } } := by
  have taken : s.command.receiver.take commandLow commandHigh b = (r, x) := taken
  simp only [commandByte, taken]
  cases x with
  | nothing => rfl
  | discarded n => rfl
  | badLength => rfl
  | whole content crc => exact absurd rfl (unfinished content crc)

/-- INGEST_BYTE short of a whole frame: `g` is the walk's step and count, as the link stands. -/
theorem exec_ingestByte_unfinished {s : State} {l : LinkId} {b : Byte} {q r : Receiver} {x : Received}
    {g : IngestLink → IngestLink} (atRest : s.AtRest) (on : (s.link l).on = true)
    (stands : (s.link l).receiver = q) (taken : q.take 8 512 b = (r, x))
    (unfinished : ∀ content crc, x ≠ .whole content crc)
    (change : ∀ k : IngestLink, k.receiver = q →
      g k = { k with receiver := r, counters := k.counters.received x }) :
    exec (.ingestByte l b) s = .next (s.modifyLink l g) := by
  subst stands
  calc exec (.ingestByte l b) s
      = .next (ingestByte l b s) := event_at_rest atRest _
    _ = .next (s.modifyLink l g) := by
        rw [ingestByte_unfinished on taken unfinished]
        exact congrArg _ (State.modifyLink_congr (change _ rfl).symm)

/-- CL_BYTE short of a whole frame. -/
theorem exec_clByte_unfinished {s : State} {b : Byte} {q r : Receiver} {x : Received}
    (atRest : s.AtRest) (stands : s.command.receiver = q) (taken : q.take 3 65535 b = (r, x))
    (unfinished : ∀ content crc, x ≠ .whole content crc) :
    exec (.clByte b) s = .next { s with command := { s.command with
      receiver := r, counters := s.command.counters.received x } } := by
  subst stands
  calc exec (.clByte b) s
      = .next (commandByte b s) := event_at_rest atRest _
    _ = _ := by rw [commandByte_unfinished taken unfinished]

/-- Settles O21: the walk of the receiver gives each step once, and both kinds of link take it, with their
own length limits. -/
theorem oneByteWalksItsReceiver : Obligations.OneByteWalksItsReceiver := by
  intro s l b atRest
  have greatest (first : Byte) : first.toNat * 256 + b.toNat ≤ 65535 := by
    have := first.isLt; have := b.isLt; omega
  refine ⟨fun off => ?_, fun on => ?_, ?_⟩
  · exact (event_at_rest atRest _).trans (congrArg _ (ingestByte_off off b))
  · have walk {q r x g} := exec_ingestByte_unfinished (b := b) (q := q) (r := r) (x := x) (g := g)
      atRest on
    refine ⟨fun h m => walk h (take_hunt_marker m) ?_ ?_, fun h m => walk h (take_hunt_other m) ?_ ?_,
      fun h m => walk h (take_marker_second m) ?_ ?_, fun h m => walk h (take_marker_first m) ?_ ?_,
      fun h m m' => walk h (take_marker_other m m') ?_ ?_, fun h => walk h take_length_first ?_ ?_,
      fun _ h lo hi => walk h (take_length_accepted lo hi) ?_ ?_,
      fun _ h out => walk h (take_length_refused out) ?_ ?_,
      fun _ _ h short => walk h (take_frame_short short) ?_ ?_⟩
    all_goals simp +contextual [LinkCounters.received]
  · have walk {q r x} := exec_clByte_unfinished (b := b) (q := q) (r := r) (x := x) atRest
    refine ⟨fun h m => walk h (take_hunt_marker m) ?_, fun h m => walk h (take_hunt_other m) ?_,
      fun h m => walk h (take_marker_second m) ?_, fun h m => walk h (take_marker_first m) ?_,
      fun h m m' => walk h (take_marker_other m m') ?_, fun h => walk h take_length_first ?_,
      fun _ h lo => walk h (take_length_accepted lo (greatest _)) ?_,
      fun _ h out => walk h (take_length_refused (.inl out)) ?_,
      fun _ _ h short => walk h (take_frame_short short) ?_⟩
    all_goals simp

/-! ## The arbiter's choice (R41 to R43) -/

theorem LinkId.mem_all (m : LinkId) : m ∈ LinkId.all := by
  cases m <;> decide

theorem LinkId.mem_cycleAfter (last m : LinkId) : m ∈ last.cycleAfter := by
  cases last <;> cases m <;> decide

theorem State.waiting_iff (s : State) (l : LinkId) : s.waiting l = true ↔ (s.link l).fifo ≠ [] := by
  simp [State.waiting]

/-- A waiting link that the arbiter of PRIORITY mode prefers, fairness being on (R42). -/
def State.atFairnessLimit (s : State) (l : LinkId) : Bool :=
  s.waiting l && decide (0 < s.ingest.fairness) &&
    decide (s.ingest.fairness ≤ (s.link l).passedOver)

theorem State.atFairnessLimit_iff (s : State) (l : LinkId) : s.atFairnessLimit l = true ↔
    (s.link l).fifo ≠ [] ∧ 0 < s.ingest.fairness ∧ s.ingest.fairness ≤ (s.link l).passedOver := by
  simp [State.atFairnessLimit, State.waiting, and_assoc]

theorem choosePriority_eq (s : State) : choosePriority s =
    (LinkId.all.find? s.atFairnessLimit).or (LinkId.all.find? s.waiting) := by
  unfold choosePriority State.atFairnessLimit
  split <;> simp [*]

theorem choosePriority_eq_none (s : State) :
    choosePriority s = none ↔ ∀ m, s.waiting m = false := by
  simp +contextual [choosePriority_eq, LinkId.mem_all, State.atFairnessLimit]

theorem chooseRoundRobin_eq_none (s : State) :
    chooseRoundRobin s = none ↔ ∀ m, s.waiting m = false := by
  simp [chooseRoundRobin, LinkId.mem_cycleAfter]

theorem chooseLink_eq_none (s : State) : chooseLink s = none ↔ ∀ m, (s.link m).fifo = [] := by
  have empty (m : LinkId) : s.waiting m = false ↔ (s.link m).fifo = [] := by simp [State.waiting]
  simp only [← empty, chooseLink]
  split
  · exact choosePriority_eq_none s
  · exact chooseRoundRobin_eq_none s

theorem choosePriority_eq_some (s : State) (l : LinkId) : choosePriority s = some l ↔
    (s.atFairnessLimit l = true ∧ ∀ m, s.atFairnessLimit m = true → l.index ≤ m.index) ∨
    ((∀ m, ¬ s.atFairnessLimit m = true) ∧
      s.waiting l = true ∧ ∀ m, s.waiting m = true → l.index ≤ m.index) := by
  simp [choosePriority_eq, Option.or_eq_some_iff, find_lowest_link, LinkId.mem_all]

/-- The chosen link is waiting, in either mode. -/
theorem waiting_of_chooseLink {s : State} {l : LinkId} (chosen : chooseLink s = some l) :
    s.waiting l = true := by
  unfold chooseLink at chosen
  split at chosen
  · obtain ⟨limit, -⟩ | ⟨-, waits, -⟩ := (choosePriority_eq_some s l).1 chosen
    · exact (s.waiting_iff l).2 ((s.atFairnessLimit_iff l).1 limit).1
    · exact waits
  · exact List.find?_some chosen

/-- Settles O23: both modes search the links in an order of their own; PRIORITY mode first among those at
the fairness limit. -/
theorem arbiterChoosesByItsMode : Obligations.ArbiterChoosesByItsMode := by
  refine fun s => ⟨chooseLink_eq_none s, fun l chosen => ⟨?_, fun mode => ?_, fun mode => ?_⟩⟩
  · exact (s.waiting_iff l).1 (waiting_of_chooseLink chosen)
  · simp only [chooseLink, mode, choosePriority_eq_some, State.atFairnessLimit_iff,
      State.waiting_iff] at chosen
    obtain ⟨⟨waits, on, limit⟩, lowest⟩ | ⟨noLimit, -, lowest⟩ := chosen
    · refine ⟨fun _ _ => ⟨limit, fun m hm hl => lowest m ⟨hm, on, hl⟩⟩, ?_⟩
      rintro (off | below)
      · omega
      · exact absurd (below l waits) (Nat.not_lt.2 limit)
    · refine ⟨?_, fun _ => lowest⟩
      rintro on ⟨m, hm, hl⟩
      exact absurd ⟨hm, on, hl⟩ (noLimit m)
  · simp only [chooseLink, mode, chooseRoundRobin, find_next_link, State.waiting_iff] at chosen
    exact chosen.2

/-! ## The Unknown Source Log (R46 to R48) -/

theorem recordUnknown_logged {s : State} {f : IngestFrame} (logged : ∃ e ∈ s.ingest.log, e.id = f.id) :
    recordUnknown f s = { s.countLink f.link (fun c =>
        { c with unknownFrames := bump c.unknownFrames }) with
      ingest := { s.ingest with log := countLogged f.id s.ingest.log } } :=
  if_pos (by simpa using logged)

theorem recordUnknown_unlogged {s : State} {f : IngestFrame}
    (unlogged : ∀ e ∈ s.ingest.log, e.id ≠ f.id) :
    recordUnknown f s = raiseNotice .unknown (.ingest f.link) f.id.toNat
      { s.countLink f.link (fun c => { c with unknownFrames := bump c.unknownFrames }) with
        ingest := { s.ingest with
          log := logRoom s.ingest.log ++ [⟨f.id, f.link, f.stampSecond, 1⟩] } } :=
  if_neg (by simpa using unlogged)

theorem logRoom_of_room {log : List LogEntry} (room : log.length < 16) : logRoom log = log :=
  if_pos room

/-- A full log gives up the earliest added of the entries with its smallest first-seen second (R48). -/
theorem logRoom_of_full {log : List LogEntry} (full : log.length = 16) : ∃ before oldest after,
    log = before ++ oldest :: after ∧ (∀ e ∈ log, oldest.firstSeen ≤ e.firstSeen) ∧
    (∀ e ∈ before, oldest.firstSeen < e.firstSeen) ∧ logRoom log = before ++ after := by
  have removes : logRoom log = removeSeen (oldestSeen log) log :=
    if_neg (by simp [full, Config.logCapacity])
  obtain ⟨least, holder⟩ := oldestSeen_least log (by rintro rfl; simp at full)
  obtain ⟨before, oldest, after, parts, seen, later, rest⟩ := removeSeen_first _ log holder
  rw [← seen] at least later
  refine ⟨before, oldest, after, parts, least, fun e he => ?_, removes.trans rest⟩
  exact (least e (by simp [parts, he])).lt_of_ne' (later e he)

/-- Settles O25: an entry of the identifier decides between counting and adding, and the room of a full log
comes from its oldest entry. -/
theorem unknownFrameIsLogged : Obligations.UnknownFrameIsLogged := by
  rintro s u f - rfl
  refine ⟨recordUnknown_logged, fun unlogged => ?_⟩
  have recorded := recordUnknown_unlogged unlogged
  refine ⟨fun room => ?_, fun full => ?_⟩
  · rw [logRoom_of_room room] at recorded
    exact recorded
  · obtain ⟨before, oldest, after, parts, least, later, made⟩ := logRoom_of_full full
    rw [made] at recorded
    exact ⟨before, oldest, after, parts, least, later, recorded⟩

end Sys2Proof.Machine

/-! DECLARE_SOURCE (R61): its checks in order, and the entry that an accepted declaration writes. -/

namespace Sys2Proof.Machine

/-! ## The range of a field -/

theorem beNat_lt (l : List Byte) : beNat l < 256 ^ l.length := by
  induction l using List.reverseRecOn with
  | nil => decide
  | append_singleton front b ih =>
    have last : beNat [b] < 256 := by simpa [beNat] using b.isLt
    rw [beNat_append, List.length_append, List.length_singleton, pow_succ]
    omega

theorem fieldAt_lt (body : List Byte) (offset width : Nat) :
    fieldAt body offset width < 256 ^ width :=
  (beNat_lt _).trans_le (Nat.pow_le_pow_right (by decide) (List.length_take_le ..))

/-! ## The checks of a declaration -/

theorem optionsValid_iff (f : List Byte) (o : Nat) : optionsValid f o = true ↔
    fieldAt f o 1 ≤ 1 ∧ fieldAt f (o + 1) 1 ≤ 1 ∧ fieldAt f (o + 3) 4 ≤ 3000000 ∧
    fieldAt f (o + 7) 1 ≤ 1 ∧ fieldAt f (o + 8) 1 ≤ 15 ∧ fieldAt f (o + 9) 1 ≤ 254 ∧
    fieldAt f (o + 10) 1 ≤ 1 := by
  simp only [optionsValid, Bool.and_eq_true, decide_eq_true_eq, and_assoc]

/-- An identifier other than 0 and 65,535 lies between them, for its field has two bytes; and the defaults
option, in range and not on, is off. -/
theorem declarationValid_iff (f0 : Nat) (f : List Byte) : declarationValid f0 f = true ↔
    1 ≤ fieldAt f 0 2 ∧ fieldAt f 0 2 ≤ 65534 ∧ 1 ≤ fieldAt f 2 1 ∧ fieldAt f 2 1 ≤ 15 ∧
    fieldAt f 3 1 ∈ rateFamily f0 ∧ 1 ≤ fieldAt f 4 3 ∧ fieldAt f 7 1 ≤ 15 ∧ fieldAt f 8 1 ≤ 8 ∧
    fieldAt f 9 1 ≤ 1 ∧ fieldAt f 10 1 ≤ 1 ∧
    (fieldAt f 10 1 = 0 → optionsValid f 11 = true) := by
  have identifier := fieldAt_lt f 0 2
  simp only [declarationValid, Bool.and_eq_true, Bool.or_eq_true, decide_eq_true_eq,
    List.contains_iff_mem, and_assoc]
  grind

/-! ## What DECLARE_SOURCE comes to -/

section
variable {r : Request} {s : State}

theorem declareSource_of_invalid (length : r.fields.length = 22)
    (invalid : ¬ declarationValid s.grid.f0 r.fields = true) :
    declareSource r s = .refuse .badField :=
  checks_badField (decide_eq_true length) rfl (Bool.not_eq_true _ ▸ invalid)

theorem declareSource_of_mapped (length : r.fields.length = 22)
    (valid : declarationValid s.grid.f0 r.fields = true)
    (mapped : ∃ p ∈ s.sources, p.2.state ≠ .unused ∧ p.2.id = requestId r.fields) :
    declareSource r s = .refuse .exists := by
  have found : (mappedEntry (requestId r.fields) s.sources).isSome := by
    rw [Option.isSome_iff_ne_none, Ne, mappedEntry_none]
    obtain ⟨p, listed, used, named⟩ := mapped
    exact fun free => free p listed used named
  exact (checks_pass (decide_eq_true length) rfl valid).trans (if_pos found)

/-- A valid declaration of a new identifier turns on the search for an UNUSED entry. -/
theorem declareSource_of_new {found : Option Nat} (length : r.fields.length = 22)
    (valid : declarationValid s.grid.f0 r.fields = true)
    (new : ∀ p ∈ s.sources, p.2.state ≠ .unused → p.2.id ≠ requestId r.fields)
    (search : firstUnused s.sources Config.sourceEntries 0 = found) :
    declareSource r s =
      found.elim (.refuse .tableFull) fun i => .accept (declare r.fields i s) (be2 i) := by
  have free : ¬ (mappedEntry (requestId r.fields) s.sources).isSome := by
    simp [(mappedEntry_none ..).2 new]
  rw [declareSource, checks_pass (decide_eq_true length) rfl valid, if_neg free, search]
  cases found <;> rfl

theorem firstUnused_of_full (full : ∀ i, i < 1024 → (s.entry i).state ≠ .unused) :
    firstUnused s.sources 1024 0 = none :=
  (firstUnused_lowest s.sources 1024 0).1.2 fun i _ below => full i (by omega)

theorem firstUnused_of_lowest {i : Nat} (below : i < 1024) (unused : (s.entry i).state = .unused)
    (lowest : ∀ j, j < i → (s.entry j).state ≠ .unused) : firstUnused s.sources 1024 0 = some i :=
  (firstUnused_lowest s.sources 1024 0).2 i (by omega) (by omega) unused fun j _ => lowest j

/-! ## The accepted declaration -/

/-- A declared entry is listed; the Hold Bank record of its index and the Unknown Source Log entries of
its identifier go (R49, R61). -/
theorem declare_eq (f : List Byte) (i : Nat) (s : State) : declare f i s =
    { s with
      sources := tableInsert i (declaredEntry f) s.sources
      assembler := { s.assembler with holdBank := tableErase i s.assembler.holdBank }
      ingest := { s.ingest with log := s.ingest.log.filter fun e => e.id ≠ requestId f } } := by
  unfold declare
  rw [setEntry_of_used s i (declaredEntry f) (by simp [declaredEntry])]
  rfl

theorem declare_withProcessor (f : List Byte) (i : Nat) (p : Processor) (s : State) :
    declare f i (s.withProcessor p) = (declare f i s).withProcessor p := rfl

/-! ## The command -/

variable {rest : List Request}

/-- A refused DECLARE_SOURCE answers with its status alone. -/
theorem exec_declareSource_refused {status : Status} (executes : s.Executes 9 r rest)
    (refused : declareSource r (s.withProcessor .executing) = .refuse status) :
    exec .declareSource s = .next (finishRequest r status [] s) :=
  (answer_runRequest executes declareSource).trans (by rw [refused]; rfl)

/-- An accepted DECLARE_SOURCE writes the entry that the search has found and answers with its index. -/
theorem exec_declareSource_accepted {i : Nat} (executes : s.Executes 9 r rest)
    (accepted : declareSource r (s.withProcessor .executing) =
      .accept (declare r.fields i (s.withProcessor .executing)) (be2 i)) :
    exec .declareSource s = .next (finishRequest r .ok (be2 i) (declare r.fields i s)) :=
  (answer_runRequest executes declareSource).trans (by
    rw [accepted, conclude, declare_withProcessor, finishRequest_withProcessor])

end

/-- Settles O55: the checks decide in their order between the refusals and the search for an UNUSED entry,
whose lowest one takes the declaration. -/
theorem declarationTakesTheLowestUnusedEntry :
    Obligations.DeclarationTakesTheLowestUnusedEntry := by
  rintro s r rest _ _ valid executes rfl length rfl valid_iff
  have passes : valid ↔ declarationValid s.grid.f0 r.fields = true := by
    rw [valid_iff, declarationValid_iff, optionsValid_iff]
  rw [passes]
  refine ⟨fun invalid => ?_, fun ok mapped => ?_, fun ok new => ⟨fun full => ?_,
    fun i below unused lowest => ?_⟩⟩
  · exact exec_declareSource_refused executes (declareSource_of_invalid length invalid)
  · exact exec_declareSource_refused executes (declareSource_of_mapped length ok mapped)
  · exact exec_declareSource_refused executes
      (declareSource_of_new (s := s.withProcessor .executing) length ok new (firstUnused_of_full full))
  · have accepted := exec_declareSource_accepted executes
      (declareSource_of_new (s := s.withProcessor .executing) length ok new
        (firstUnused_of_lowest below unused lowest))
    rw [accepted, declare_eq]
    rfl

end Sys2Proof.Machine

/-! The disposition pass (R125 to R130): the disposition of one entry, the visit of one entry, and the
pass over the Source Table as one visit after another. -/

namespace Sys2Proof.Machine

/-! ## The disposition of an entry without a sample (R127 to R130) -/

theorem Entry.visited_iff (e : Entry) :
    e.visited = true ↔ e.state ≠ .unused ∧ e.state ≠ .retiring := by
  cases h : e.state <;> simp [Entry.visited, h]

/-- An entry once its miss at instant `n`, if it has one, is counted. -/
def Entry.missed (rate n : Nat) (e : Entry) : Entry := if e.misses rate n then e.afterMiss else e

/-- The miss brings the stall (R128). -/
def Entry.stalls (rate n : Nat) (e : Entry) : Bool :=
  e.misses rate n && decide (e.missCount + 1 = e.options.stallThreshold)

section
variable {rate n : Nat} {e : Entry} {hold : Option SampleRecord} {r : SampleRecord}

theorem expectedAt_iff {sourceRate : Nat} :
    expectedAt rate sourceRate n = true ↔ n % rate * sourceRate % rate = 0 :=
  decide_eq_true_iff

theorem Entry.misses_iff : e.misses rate n = true ↔
    e.state = .active ∧ expectedAt rate e.shape.rate n = true ∧
      ∀ x, e.receipt.newest = some x → x < n := by
  cases h : e.receipt.newest <;> simp [Entry.misses, h, and_assoc]

/-- A miss changes the miss count, and a stall the state and its counter; nothing else changes. -/
theorem Entry.missed_eq (rate n : Nat) (e : Entry) : e.missed rate n = { e with
    missCount := if e.misses rate n then e.missCount + 1 else e.missCount
    state := if e.stalls rate n then .stalled else e.state
    counters := { e.counters with
      stalls := if e.stalls rate n then bump e.counters.stalls else e.counters.stalls } } := by
  unfold Entry.missed Entry.stalls
  by_cases miss : e.misses rate n = true
  · by_cases full : e.missCount + 1 = e.options.stallThreshold <;> simp [Entry.afterMiss, miss, full]
  · simp [miss]

theorem Entry.dispose_none :
    e.dispose rate n none hold = (e.missed rate n).disposeAbsent rate n hold := rfl

/-- A stall leaves its entry among those whose hold record may be released. -/
theorem Entry.releasable_missed : (e.missed rate n).releasable hold = e.releasable hold := by
  by_cases stall : e.stalls rate n = true
  · have active : e.state = .active :=
      (Entry.misses_iff.1 (Bool.and_eq_true_iff.1 stall).1).1
    simp [Entry.releasable, Entry.missed_eq, stall, active]
  · simp [Entry.releasable, Entry.missed_eq, stall]

theorem Entry.missed_of_unexpected (unexpected : ¬ expectedAt rate e.shape.rate n = true) :
    e.missed rate n = e :=
  if_neg fun miss => unexpected (Entry.misses_iff.1 miss).2.1

/-- Without a sample, past the miss, only the held count and two counters can change. -/
theorem Entry.disposeAbsent_frame (rate n : Nat) (hold : Option SampleRecord) (e : Entry) :
    ∃ count held absent, (e.disposeAbsent rate n hold).1 =
      { e with heldCount := count, counters := { e.counters with held, absent } } := by
  unfold Entry.disposeAbsent
  dsimp only
  (repeat' split) <;> exact ⟨_, _, _, rfl⟩

/-- What a disposition without a sample counts for the miss, and what it keeps. -/
theorem Entry.dispose_none_frame {e' : Entry} {d : Disposition}
    (disposed : e.dispose rate n none hold = (e', d)) :
    e'.missCount = (if e.misses rate n then e.missCount + 1 else e.missCount) ∧
    e'.state = (if e.stalls rate n then .stalled else e.state) ∧
    e'.counters.stalls = (if e.stalls rate n then bump e.counters.stalls else e.counters.stalls) ∧
    e'.id = e.id ∧ e'.links = e.links ∧ e'.shape = e.shape ∧ e'.options = e.options ∧
    e'.latency = e.latency ∧ e'.receipt = e.receipt := by
  obtain ⟨count, held, absent, frame⟩ := Entry.disposeAbsent_frame rate n hold (e.missed rate n)
  rw [← Entry.dispose_none, disposed] at frame
  subst frame
  simp [Entry.missed_eq]

theorem Entry.releasable_eq_some (live : e.state = .active ∨ e.state = .stalled)
    (policy : e.options.holdPolicy = .hold) : e.releasable (some r) = some r :=
  if_pos ⟨live, policy⟩

theorem Entry.releasable_eq_none (out : e.state = .declared ∨ e.state = .suspended ∨
    e.options.holdPolicy = .absent ∨ hold = none) : e.releasable hold = none := by
  obtain h | h | h | h := out <;> simp [Entry.releasable, h]

/-- A releasable hold record is released at an instant that is not expected, and at an expected one while
the held count is below its limit (R129, R130). -/
theorem Entry.dispose_of_released {e' : Entry} {d : Disposition}
    (disposed : e.dispose rate n none hold = (e', d)) (released : e.releasable hold = some r) :
    (expectedAt rate e.shape.rate n = true → e.heldCount < e.options.holdLimit →
      d = .held r ∧ e'.heldCount = e.heldCount + 1 ∧
      e'.counters.held = bump e.counters.held ∧ e'.counters.absent = e.counters.absent) ∧
    (expectedAt rate e.shape.rate n = true → e.options.holdLimit ≤ e.heldCount →
      d = .absent ∧ e'.heldCount = e.heldCount ∧ e'.counters.held = e.counters.held ∧
      e'.counters.absent = bump e.counters.absent) ∧
    (¬ expectedAt rate e.shape.rate n = true → d = .held r ∧ e' = e) := by
  rw [← Entry.releasable_missed (rate := rate) (n := n)] at released
  rw [Entry.dispose_none, Entry.disposeAbsent, released] at disposed
  refine ⟨fun expected below => ?_, fun expected limit => ?_, fun unexpected => ?_⟩
  · simp only [Entry.missed_eq, expected, below, if_true, Prod.mk.injEq] at disposed
    obtain ⟨rfl, rfl⟩ := disposed
    exact ⟨rfl, rfl, rfl, rfl⟩
  · simp only [Entry.missed_eq, expected, Nat.not_lt.2 limit, if_true, if_false,
      Prod.mk.injEq] at disposed
    obtain ⟨rfl, rfl⟩ := disposed
    exact ⟨rfl, rfl, rfl, rfl⟩
  · rw [Entry.missed_of_unexpected unexpected] at disposed
    obtain ⟨rfl, rfl⟩ := Prod.mk.inj ((if_neg unexpected).symm.trans disposed)
    exact ⟨rfl, rfl⟩

/-- Without a releasable hold record the entry is absent or not expected, and neither is counted. -/
theorem Entry.dispose_of_unreleased {e' : Entry} {d : Disposition}
    (disposed : e.dispose rate n none hold = (e', d)) (unreleased : e.releasable hold = none) :
    (expectedAt rate e.shape.rate n = true → d = .absent) ∧
    (¬ expectedAt rate e.shape.rate n = true → d = .notExpected) ∧
    e'.heldCount = e.heldCount ∧ e'.counters.held = e.counters.held ∧
    e'.counters.absent = e.counters.absent := by
  rw [← Entry.releasable_missed (rate := rate) (n := n)] at unreleased
  rw [Entry.dispose_none, Entry.disposeAbsent, unreleased] at disposed
  simp only [Entry.missed_eq, Prod.mk.injEq] at disposed
  obtain ⟨rfl, rfl⟩ := disposed
  exact ⟨fun expected => if_pos expected, fun unexpected => if_neg unexpected, rfl, rfl, rfl⟩

end

/-! ## The visit of one entry (R125, R126, R128) -/

/-- The entry and the disposition that a visit of index `i` gives. -/
def State.disposal (n : Nat) (c : Table SampleRecord) (s : State) (i : Nat) : Entry × Disposition :=
  (s.entry i).dispose s.grid.rate n (tableFind i c) (s.hold? i)

/-- The sample that becomes the hold record of index `i` (R126). -/
def State.freshHold (c : Table SampleRecord) (s : State) (i : Nat) : Option SampleRecord :=
  (tableFind i c).filter fun r => decide (r.phasors.length = (s.entry i).shape.phasors ∧
    r.analogs.length = (s.entry i).shape.analogs)

/-- The Hold Bank after the visit. -/
def State.bankAfter (c : Table SampleRecord) (s : State) (i : Nat) : Table SampleRecord :=
  match s.freshHold c i with
  | some r => tableInsert i r s.assembler.holdBank
  | none => s.assembler.holdBank

/-- The visit stalls the entry of index `i`. -/
def State.stallsAt (n : Nat) (c : Table SampleRecord) (s : State) (i : Nat) : Bool :=
  decide ((s.entry i).state = .active ∧ (s.disposal n c i).1.state = .stalled)

/-- The state after a visit, before the notice of a stall. -/
def State.visit (n : Nat) (c : Table SampleRecord) (s : State) (i : Nat) : State := { s with
  sources := tableInsert i (s.disposal n c i).1 s.sources
  assembler := { s.assembler with
    dispositions := s.assembler.dispositions ++ [⟨i, (s.entry i).id, (s.disposal n c i).2⟩]
    holdBank := s.bankAfter c i } }

section
variable {n i : Nat} {c : Table SampleRecord} {s : State} {r : SampleRecord}

theorem State.freshHold_eq_some : s.freshHold c i = some r ↔ tableFind i c = some r ∧
    r.phasors.length = (s.entry i).shape.phasors ∧ r.analogs.length = (s.entry i).shape.analogs := by
  rw [State.freshHold, Option.filter_eq_some_iff, decide_eq_true_iff]

theorem State.freshHold_eq_none : s.freshHold c i = none ↔ ∀ r, tableFind i c = some r →
    r.phasors.length ≠ (s.entry i).shape.phasors ∨
      r.analogs.length ≠ (s.entry i).shape.analogs := by
  simp only [State.freshHold, Option.filter_eq_none_iff, decide_eq_true_iff, not_and_or]

/-- The Hold Bank is known from the two cases of the sample: of the entry's shape, or not. -/
theorem State.eq_bankAfter {bank : Table SampleRecord}
    (fits : ∀ r, tableFind i c = some r → r.phasors.length = (s.entry i).shape.phasors →
      r.analogs.length = (s.entry i).shape.analogs → bank = tableInsert i r s.assembler.holdBank)
    (unfit : (∀ r, tableFind i c = some r → r.phasors.length ≠ (s.entry i).shape.phasors ∨
      r.analogs.length ≠ (s.entry i).shape.analogs) → bank = s.assembler.holdBank) :
    bank = s.bankAfter c i := by
  unfold State.bankAfter
  cases fresh : s.freshHold c i with
  | none => exact unfit (State.freshHold_eq_none.1 fresh)
  | some r =>
    obtain ⟨found, phasors, analogs⟩ := State.freshHold_eq_some.1 fresh
    exact fits r found phasors analogs

theorem State.bankAfter_find (j : Nat) : tableFind j (s.bankAfter c i) =
    if j = i then (s.freshHold c i).or (s.hold? i) else s.hold? j := by
  unfold State.bankAfter
  cases s.freshHold c i with
  | none => by_cases same : j = i <;> simp [same, State.hold?]
  | some r => simp [tableFind_insert, State.hold?]

theorem Entry.dispose_visited {rate : Nat} {sample hold : Option SampleRecord} {e : Entry}
    (visited : e.visited = true) : (e.dispose rate n sample hold).1.visited = true := by
  cases sample with
  | some r => exact visited
  | none =>
    obtain ⟨count, held, absent, frame⟩ :=
      Entry.disposeAbsent_frame rate n hold (e.missed rate n)
    rw [Entry.dispose_none, frame]
    by_cases stall : e.stalls rate n = true
    · simp [Entry.visited, Entry.missed_eq, stall]
    · simpa [Entry.visited, Entry.missed_eq, stall] using visited

/-- A visited entry stays listed, for it does not become UNUSED. -/
theorem State.setEntry_disposal (visited : (s.entry i).visited = true) :
    s.setEntry i (s.disposal n c i).1 =
      { s with sources := tableInsert i (s.disposal n c i).1 s.sources } := by
  have stays : (s.disposal n c i).1.visited = true := Entry.dispose_visited visited
  refine setEntry_of_used s i _ fun unused => ?_
  exact ((Entry.visited_iff _).1 stays).1 unused

theorem visitEntry_of_unvisited {m : Bool} (unvisited : (s.entry i).visited = false) :
    visitEntry n c (s, m) i = (s, m) := by
  simp [visitEntry, unvisited]

theorem visitEntry_of_visited {m : Bool} (visited : (s.entry i).visited = true) :
    visitEntry n c (s, m) i = if s.stallsAt n c i then
      (raiseSource i .stalled (s.visit n c i), true) else (s.visit n c i, m) := by
  have written := s.setEntry_disposal (n := n) (c := c) visited
  unfold State.disposal at written
  unfold visitEntry State.stallsAt State.visit State.bankAfter State.disposal State.freshHold
  dsimp only
  rw [if_pos visited, written]
  cases tableFind i c with
  | none => simp
  | some r =>
    by_cases fits : r.phasors.length = (s.entry i).shape.phasors ∧
        r.analogs.length = (s.entry i).shape.analogs <;>
      simp [keepHold, fits, Option.filter_some]

end

/-! ## What a visit leaves at each index -/

/-- The entry of index `i` after its turn in the pass. -/
def State.entryAfter (n : Nat) (c : Table SampleRecord) (s : State) (i : Nat) : Entry :=
  if (s.entry i).visited then (s.disposal n c i).1 else s.entry i

/-- The hold record of index `i` after its turn in the pass. -/
def State.holdAfter (c : Table SampleRecord) (s : State) (i : Nat) : Option SampleRecord :=
  if (s.entry i).visited then (s.freshHold c i).or (s.hold? i) else s.hold? i

/-- The disposition record that index `i` gets. -/
def State.recordOf (n : Nat) (c : Table SampleRecord) (s : State) (i : Nat) :
    Option DispositionRecord :=
  if (s.entry i).visited then some ⟨i, (s.entry i).id, (s.disposal n c i).2⟩ else none

section
variable {n i : Nat} {c : Table SampleRecord} {s : State} {p : State × Bool}

/-- A visit keeps the state and the mark, or makes `State.visit` up to the notice of a stall. -/
theorem visitEntry_cases (n : Nat) (c : Table SampleRecord) (p : State × Bool) (i : Nat) :
    ((p.1.entry i).visited = false ∧ visitEntry n c p i = p) ∨
    ((p.1.entry i).visited = true ∧
      (visitEntry n c p i).1.sources = (p.1.visit n c i).sources ∧
      (visitEntry n c p i).1.assembler = (p.1.visit n c i).assembler ∧
      (visitEntry n c p i).2 = (p.2 || p.1.stallsAt n c i)) := by
  obtain ⟨s, m⟩ := p
  obtain unvisited | visited := (s.entry i).visited.eq_false_or_eq_true.symm
  · exact .inl ⟨unvisited, visitEntry_of_unvisited unvisited⟩
  · refine .inr ⟨visited, ?_⟩
    rw [visitEntry_of_visited visited]
    cases s.stallsAt n c i <;> simp

theorem State.stallsAt_visited (stalls : s.stallsAt n c i = true) : (s.entry i).visited = true := by
  obtain ⟨active, -⟩ := of_decide_eq_true stalls
  simp [Entry.visited_iff, active]

theorem visitEntry_entry (j : Nat) : (visitEntry n c p i).1.entry j =
    if j = i then p.1.entryAfter n c i else p.1.entry j := by
  obtain ⟨unvisited, kept⟩ | ⟨visited, sources, -, -⟩ := visitEntry_cases n c p i
  · rw [kept, State.entryAfter, unvisited]
    split <;> simp [*]
  · rw [State.entry, sources, State.visit, tableFind_insert, State.entryAfter, if_pos visited]
    split <;> rfl

theorem visitEntry_hold (j : Nat) : (visitEntry n c p i).1.hold? j =
    if j = i then p.1.holdAfter c i else p.1.hold? j := by
  obtain ⟨unvisited, kept⟩ | ⟨visited, -, assembler, -⟩ := visitEntry_cases n c p i
  · rw [kept, State.holdAfter, unvisited]
    split <;> simp [*]
  · rw [State.hold?, assembler, State.holdAfter, if_pos visited]
    exact State.bankAfter_find j

theorem visitEntry_dispositions : (visitEntry n c p i).1.assembler.dispositions =
    p.1.assembler.dispositions ++ (p.1.recordOf n c i).toList := by
  obtain ⟨unvisited, kept⟩ | ⟨visited, -, assembler, -⟩ := visitEntry_cases n c p i
  · simp [kept, State.recordOf, unvisited]
  · simp [assembler, State.visit, State.recordOf, visited]

theorem visitEntry_mark : (visitEntry n c p i).2 = (p.2 || p.1.stallsAt n c i) := by
  obtain ⟨unvisited, kept⟩ | ⟨-, -, -, mark⟩ := visitEntry_cases n c p i
  · have calm : p.1.stallsAt n c i = false := by
      rw [← Bool.not_eq_true]
      exact fun stalls => by simp [State.stallsAt_visited stalls] at unvisited
    rw [kept, calm, Bool.or_false]
  · exact mark

end

/-! ## The pass (R125) -/

/-- The pass begun on `s`, once it has made the visits of `l`: each of them as on `s` itself. -/
structure Passed (n : Nat) (c : Table SampleRecord) (s : State) (l : List Nat) (p : State × Bool) :
    Prop where
  grid : p.1.grid = s.grid
  entry (i : Nat) : p.1.entry i = if i ∈ l then s.entryAfter n c i else s.entry i
  hold (i : Nat) : p.1.hold? i = if i ∈ l then s.holdAfter c i else s.hold? i
  dispositions : p.1.assembler.dispositions =
    s.assembler.dispositions ++ l.filterMap (s.recordOf n c)
  mark : p.2 = l.any (s.stallsAt n c)

section
variable {n i : Nat} {c : Table SampleRecord} {s : State} {l : List Nat} {p : State × Bool}

/-- A visit reads nothing that a visit of another index writes. -/
theorem Passed.visit (passed : Passed n c s l p) (new : i ∉ l) :
    Passed n c s (l ++ [i]) (visitEntry n c p i) := by
  have entry : p.1.entry i = s.entry i := (passed.entry i).trans (if_neg new)
  have hold : p.1.hold? i = s.hold? i := (passed.hold i).trans (if_neg new)
  have disposal : p.1.disposal n c i = s.disposal n c i := by
    simp only [State.disposal, entry, hold, passed.grid]
  refine ⟨?_, fun j => ?_, fun j => ?_, ?_, ?_⟩
  · rw [visitEntry_grid n c p p.1 rfl i, passed.grid]
  · rw [visitEntry_entry, passed.entry j]
    by_cases same : j = i
    · simp [same, State.entryAfter, entry, disposal]
    · simp [same]
  · rw [visitEntry_hold, passed.hold j]
    by_cases same : j = i
    · simp [same, State.holdAfter, State.freshHold, entry, hold]
    · simp [same]
  · have record : p.1.recordOf n c i = s.recordOf n c i := by
      simp only [State.recordOf, entry, disposal]
    rw [visitEntry_dispositions, passed.dispositions, record, List.append_assoc,
      List.filterMap_append]
    cases made : s.recordOf n c i <;> simp [made]
  · rw [visitEntry_mark, passed.mark]
    simp [State.stallsAt, entry, disposal]

theorem passed_foldl (distinct : l.Nodup) :
    Passed n c s l (l.foldl (visitEntry n c) (s, false)) := by
  induction l using List.reverseRecOn with
  | nil => exact ⟨rfl, fun _ => by simp, fun _ => by simp, by simp, rfl⟩
  | append_singleton front i ih =>
    obtain ⟨front_distinct, -, apart⟩ := List.nodup_append.1 distinct
    rw [List.foldl_append]
    exact (ih front_distinct).visit fun listed => apart i listed i (List.mem_singleton_self i) rfl

theorem dispositionPass_passed (sorted : tableSorted s.sources) :
    Passed n c s s.sourceIndices (dispositionPass n c s) :=
  passed_foldl (List.Pairwise.imp Nat.ne_of_lt sorted)

theorem mem_sourceIndices_of_visited (visited : (s.entry i).visited = true) :
    i ∈ s.sourceIndices := by
  by_contra unlisted
  simp [entry_of_not_listed s i unlisted, Entry.unused, Entry.visited] at visited

/-- The pass gives every index its turn: an index that is not listed has none to take. -/
theorem dispositionPass_entry (sorted : tableSorted s.sources) (i : Nat) :
    (dispositionPass n c s).1.entry i = s.entryAfter n c i := by
  rw [(dispositionPass_passed sorted).entry, State.entryAfter]
  split
  · rfl
  · next unlisted => rw [if_neg fun visited => unlisted (mem_sourceIndices_of_visited visited)]

theorem dispositionPass_hold (sorted : tableSorted s.sources) (i : Nat) :
    (dispositionPass n c s).1.hold? i = s.holdAfter c i := by
  rw [(dispositionPass_passed sorted).hold, State.holdAfter]
  split
  · rfl
  · next unlisted => rw [if_neg fun visited => unlisted (mem_sourceIndices_of_visited visited)]

theorem map_source_recordOf (l : List Nat) : (l.filterMap (s.recordOf n c)).map (·.source) =
    l.filter fun i => (s.entry i).visited := by
  induction l with
  | nil => rfl
  | cons i l ih => cases visited : (s.entry i).visited <;> simp [State.recordOf, visited, ih]

theorem filter_visited_sources (sorted : tableSorted s.sources) :
    (s.sourceIndices.filter fun i => (s.entry i).visited) =
      (s.sources.filter fun p => p.2.visited).map (·.1) := by
  rw [State.sourceIndices, List.filter_map]
  refine congrArg _ (List.filter_congr fun p listed => ?_)
  simp [State.entry, tableFind_of_mem sorted listed]

theorem source_of_recordOf {r : DispositionRecord} (record : s.recordOf n c i = some r) :
    r.source = i := by
  obtain ⟨-, made⟩ := Option.ite_none_right_eq_some.1 record
  exact Option.some.inj made ▸ rfl

/-- The list holds the record of an index under its source. -/
theorem find_recordOf {r : DispositionRecord} (listed : i ∈ l) (record : s.recordOf n c i = some r) :
    (l.filterMap (s.recordOf n c)).find? (fun x => x.source = i) = some r := by
  induction l with
  | nil => exact absurd listed List.not_mem_nil
  | cons j l ih =>
    by_cases same : j = i
    · subst same
      simp [record, source_of_recordOf record]
    · have later := ih (List.mem_of_ne_of_mem (Ne.symm same) listed)
      cases other : s.recordOf n c j with
      | none => simpa [other] using later
      | some x => simpa [other, source_of_recordOf other, same] using later

theorem dispositionPass_dispositionOf {r : DispositionRecord} (sorted : tableSorted s.sources)
    (empty : s.assembler.dispositions = []) (record : s.recordOf n c i = some r) :
    (dispositionPass n c s).1.dispositionOf i = some r := by
  have visited : (s.entry i).visited = true := (Option.ite_none_right_eq_some.1 record).1
  rw [State.dispositionOf, (dispositionPass_passed sorted).dispositions, empty]
  exact find_recordOf (mem_sourceIndices_of_visited visited) record

theorem dispositionPass_sources (sorted : tableSorted s.sources)
    (empty : s.assembler.dispositions = []) :
    (dispositionPass n c s).1.assembler.dispositions.map (·.source) =
      (s.sources.filter fun p => p.2.visited).map (·.1) := by
  rw [(dispositionPass_passed sorted).dispositions, empty, List.nil_append, map_source_recordOf,
    filter_visited_sources sorted]

theorem dispositionPass_mark (sorted : tableSorted s.sources) :
    (dispositionPass n c s).2 = true ↔ ∃ i, (s.entry i).state = .active ∧
      ((dispositionPass n c s).1.entry i).state = .stalled := by
  have after {i : Nat} (active : (s.entry i).state = .active) :
      s.entryAfter n c i = (s.disposal n c i).1 :=
    if_pos ((s.entry i).visited_iff.2 (by simp [active]))
  simp only [(dispositionPass_passed sorted).mark, List.any_eq_true, dispositionPass_entry sorted]
  constructor
  · rintro ⟨i, -, stalls⟩
    obtain ⟨active, stalled⟩ := of_decide_eq_true stalls
    exact ⟨i, active, (after active).symm ▸ stalled⟩
  · rintro ⟨i, active, stalled⟩
    rw [after active] at stalled
    have stalls : s.stallsAt n c i = true := decide_eq_true ⟨active, stalled⟩
    exact ⟨i, mem_sourceIndices_of_visited (State.stallsAt_visited stalls), stalls⟩

end

/-- Settles O38: one entry's disposition by its sample, its hold record and its expectation; the visit writes
it; and the pass is one such visit per listed index, none of which reads what another has written. -/
theorem dispositionPassVisitsEveryEntryOnce : Obligations.DispositionPassVisitsEveryEntryOnce := by
  refine ⟨?_, Entry.visited_iff, ?_, ?_⟩
  · intro rate n e hold expected miss stall _ expected_iff miss_iff stall_iff
    have expects : expected ↔ expectedAt rate e.shape.rate n = true :=
      expected_iff.trans expectedAt_iff.symm
    have misses : miss ↔ e.misses rate n = true := by
      rw [miss_iff, Entry.misses_iff, expects]
    have stalls : stall ↔ e.stalls rate n = true := by
      rw [stall_iff, misses, Entry.stalls, Bool.and_eq_true, decide_eq_true_iff]
    rw [expects, misses, stalls]
    refine ⟨fun r => rfl, fun e' d disposed => ?_⟩
    obtain ⟨missCount, state, stallCount, kept⟩ := Entry.dispose_none_frame disposed
    refine ⟨fun h => missCount.trans (if_pos h), fun h => missCount.trans (if_neg h),
      fun h => ⟨state.trans (if_pos h), stallCount.trans (if_pos h)⟩,
      fun h => ⟨state.trans (if_neg h), stallCount.trans (if_neg h)⟩,
      fun r live policy held => ?_,
      fun out => Entry.dispose_of_unreleased disposed (Entry.releasable_eq_none out), kept⟩
    subst held
    exact Entry.dispose_of_released disposed (Entry.releasable_eq_some live policy)
  · rintro s u n i c m _ e' d bank rfl disposed
    refine ⟨visitEntry_of_unvisited, fun visited fits unfit made => ?_⟩
    obtain rfl : u = s.visit n c i := by
      rw [made, State.eq_bankAfter fits unfit, State.visit, State.disposal, disposed]
    have stalls : s.stallsAt n c i = true ↔ (s.entry i).state = .active ∧ e'.state = .stalled := by
      rw [State.stallsAt, State.disposal, disposed, decide_eq_true_iff]
    rw [visitEntry_of_visited visited]
    exact ⟨fun active stalled => if_pos (stalls.2 ⟨active, stalled⟩),
      fun calm => if_neg fun h => not_and_or.2 calm (stalls.1 h)⟩
  · intro s t n c m sorted empty passed
    obtain rfl : (dispositionPass n c s).1 = t := congrArg Prod.fst passed
    obtain rfl : (dispositionPass n c s).2 = m := congrArg Prod.snd passed
    refine ⟨dispositionPass_sources sorted empty, fun i unvisited => ?_, ?_,
      dispositionPass_mark sorted, dispositionPass_window .., dispositionPass_views ..,
      dispositionPass_current ..⟩
    · rw [dispositionPass_entry sorted, dispositionPass_hold sorted]
      simp [State.entryAfter, State.holdAfter, unvisited]
    · rintro i _ e' d rfl visited disposed
      rw [dispositionPass_entry sorted, dispositionPass_hold sorted, State.holdAfter, if_pos visited]
      refine ⟨?_, dispositionPass_dispositionOf sorted empty ?_, fun r found phasors analogs => ?_,
        fun unfit => ?_⟩
      · rw [State.entryAfter, if_pos visited, State.disposal, disposed]
      · rw [State.recordOf, if_pos visited, State.disposal, disposed]
      · rw [State.freshHold_eq_some.2 ⟨found, phasors, analogs⟩, Option.some_or]
      · rw [State.freshHold_eq_none.2 unfit, Option.none_or]

end Sys2Proof.Machine

/-! The Time Reference stays in its ranges (R17): every command and every grain of local time keeps them. -/

namespace Sys2Proof.Machine

/-- The ranges speak of the Time Reference alone. -/
theorem State.Clocked.of_time {s t : State} (h : s.Clocked) (same : t.time = s.time) : t.Clocked :=
  ⟨same ▸ h.second, same ▸ h.fraction, same ▸ h.pending, same ▸ h.outlierRun,
    same ▸ h.holdoverSeconds, same ▸ h.captureLow, same ▸ h.captureHigh, same ▸ h.limitLow,
    same ▸ h.limitHigh⟩

/-! ## The advance of local time (R18) -/

theorem grainsPerSecond_pos : 0 < Config.grainsPerSecond := by decide

/-- No time-driven event falls due beyond the last grain. -/
theorem earliestDue_le_lastGrain (s : State) : s.earliestDue ≤ lastGrain := by
  have least : ∀ (l : Table Slot) (v : Nat), v ≤ lastGrain →
      l.foldl (fun v p => min p.2.deadline v) v ≤ lastGrain := by
    intro l
    induction l with
    | nil => exact fun _ h => h
    | cons p l ih => exact fun v h => ih _ ((min_le_right ..).trans h)
  refine least _ _ ?_
  have check : (match s.time.nextCheck with
      | some v => min v lastGrain
      | none => lastGrain) ≤ lastGrain := by
    split
    · exact min_le_right ..
    · exact le_rfl
  split
  · exact (min_le_right ..).trans check
  · exact check

theorem advanceTo_clocked {v : Nat} {s : State} (within : v ≤ s.time.grains ∨ v ≤ lastGrain)
    (h : s.Clocked) : (advanceTo v s).Clocked := by
  unfold advanceTo
  split
  · exact h
  next beyond =>
    have last : v ≤ lastGrain := within.resolve_left beyond
    simp only [lastGrain, Config.maxSecond, Config.grainsPerSecond] at last
    refine { h with second := ?_, fraction := Nat.mod_lt _ (by decide) }
    show v / Config.grainsPerSecond ≤ Config.maxSecond
    simp only [Config.maxSecond, Config.grainsPerSecond]
    omega

/-- Local time advances to nothing beyond the last grain, so what it reaches is taken within the ranges. -/
theorem whenReached_clocked {v : Nat} {f : State → State} {s : State}
    (effect : ∀ s : State, s.Clocked → (f s).Clocked) (h : s.Clocked) :
    (whenReached v f s).Clocked := by
  unfold whenReached
  split
  next reached =>
    simp only [State.reaches, Bool.and_eq_true, Bool.or_eq_true, decide_eq_true_eq] at reached
    exact effect _ (advanceTo_clocked (reached.2.imp_right (·.trans (earliestDue_le_lastGrain s))) h)
  · exact h

theorem tick_clocked {s : State} (h : s.Clocked) : (tick s).Clocked := by
  unfold tick
  split
  · exact h
  · exact advanceTo_clocked (.inr (min_le_right ..)) h

/-! ## PPS edges and the missing-PPS check (R19 to R23) -/

theorem markedSecond_le {t : TimeRef} {b : Nat} (second : t.second ≤ Config.maxSecond)
    (marked : t.markedSecond = some b) : b ≤ Config.maxSecond := by
  unfold TimeRef.markedSecond at marked
  split at marked
  · cases marked; exact second
  · split at marked
    next early => cases marked; exact early.2
    · cases marked

theorem stepSecond_le {s : State} (h : s.Clocked) : s.time.stepSecond ≤ Config.maxSecond := by
  unfold TimeRef.stepSecond
  split
  next p pending => exact h.pending p pending
  · split
    next early => exact early.2
    · exact h.second

theorem capture_clocked {b : Nat} {s : State} (within : b ≤ Config.maxSecond) (h : s.Clocked) :
    (capture b s).Clocked := by
  have captured : State.Clocked { s with time := s.time.captured s.reporting.opState b } := by
    refine { h with second := ?_, fraction := grainsPerSecond_pos, pending := fun _ => nofun,
                    outlierRun := Nat.zero_le _, holdoverSeconds := ?_ }
    · show (if s.time.appliesPending s.reporting.opState b then s.time.pendingSecond.getD b else b)
        ≤ Config.maxSecond
      split
      · cases pending : s.time.pendingSecond with
        | none => exact within
        | some p => exact h.pending p pending
      · exact within
    · show s.time.holdoverAfterCapture _ ≤ 3600
      have := h.holdoverSeconds
      unfold TimeRef.holdoverAfterCapture
      (repeat' split) <;> omega
  unfold capture
  dsimp only
  split
  · exact captured.of_time (raiseTime_time ..)
  · exact captured

theorem clockStep_clocked {s : State} (h : s.Clocked) : (clockStep s).Clocked := by
  have stepped : State.Clocked { s with time :=
      { s.time.moveTo s.time.stepSecond with
        pendingSecond := none, holdoverSeconds := 0,
        quality := if s.time.quality = .unset ∧ s.time.pendingSecond = none then .unset
          else .locked } } :=
    { h with second := stepSecond_le h, fraction := grainsPerSecond_pos, pending := fun _ => nofun,
             outlierRun := Nat.zero_le _, holdoverSeconds := Nat.zero_le _ }
  exact stepped.of_time (raiseTime_time ..)

theorem enterFreeRun_clocked {cause : TimeCause} {s : State} (h : s.Clocked) :
    (enterFreeRun cause s).Clocked := by
  have freed : State.Clocked
      { s with time := { s.time with quality := .freeRun, holdoverSeconds := 0 } } :=
    { h with holdoverSeconds := Nat.zero_le _ }
  exact freed.of_time (by simp [enterFreeRun])

theorem outlier_clocked {s : State} (h : s.Clocked) : (outlier s).Clocked := by
  unfold outlier
  split
  next below => exact { h with outlierRun := Nat.lt_succ_iff.1 below }
  · split
    · exact clockStep_clocked h
    · have ended : State.Clocked { s with time := { s.time with outlierRun := 0 } } :=
        { h with outlierRun := Nat.zero_le _ }
      unfold outlierFreeRun
      dsimp only
      split
      · exact enterFreeRun_clocked ended
      · exact enterFreeRun_clocked ended
      · exact ended
      · exact ended

theorem ppsEdge_clocked {s : State} (h : s.Clocked) : (ppsEdge s).Clocked := by
  unfold ppsEdge
  split
  next b marked => exact capture_clocked (markedSecond_le h.second marked) h
  · exact outlier_clocked h

theorem missingPps_clocked {s : State} (h : s.Clocked) : (missingPps s).Clocked := by
  unfold missingPps
  split
  · exact h
  · exact h
  · have missed : State.Clocked
        { s with time := { s.time with quality := .holdover, holdoverSeconds := 1 } } :=
      { h with holdoverSeconds := (by decide : 1 ≤ 3600) }
    exact missed.of_time (raiseTime_time ..)
  · split
    next below => exact { h with holdoverSeconds := Nat.le_trans below h.limitHigh }
    · exact enterFreeRun_clocked h

theorem ppsCheck_clocked {s : State} (h : s.Clocked) : (ppsCheck s).Clocked := by
  have taken : State.Clocked { s with time := { s.time with checkTaken := true } } := { h with }
  unfold ppsCheck
  dsimp only
  split
  · exact { h with }
  · exact missingPps_clocked taken

/-! ## Requests -/

theorem setTimeValues_clocked {c k : Nat} {s : State} (captureLow : 60 ≤ c) (captureHigh : c ≤ 6000)
    (limitLow : 1 ≤ k) (limitHigh : k ≤ 3600) (h : s.Clocked) : (setTimeValues c k s).Clocked := by
  have set : State.Clocked { s with time := { s.time with captureWindow := c, holdoverLimit := k } } :=
    { h with captureLow := captureLow, captureHigh := captureHigh, limitLow := limitLow,
             limitHigh := limitHigh }
  unfold setTimeValues
  dsimp only
  split
  · exact ppsCheck_clocked set
  · exact set

theorem checks_keeps_of_fields {P : State → Prop} {length state fields : Bool} {owner : Execution}
    (h : fields = true → owner.Keeps P) : (checks length state fields owner).Keeps P := by
  unfold checks
  cases length <;> cases state <;> cases fields <;> first | trivial | exact h rfl

theorem executionOf_clocked (r : Request) {s : State} (h : s.Clocked) :
    (executionOf r s).Keeps State.Clocked := by
  have same {t : State} (e : t.time = s.time) : t.Clocked := h.of_time e
  unfold executionOf
  split
  · exact checks_keeps h
  · exact checks_keeps h
  · refine checks_keeps ?_; (repeat' split) <;> first | trivial | exact same rfl
  · exact checks_keeps (same rfl)
  · refine checks_keeps_of_fields fun fields => ?_
    simp only [Bool.and_eq_true, decide_eq_true_eq] at fields
    exact setTimeValues_clocked fields.1.1 fields.1.2 (Nat.le_add_left ..) fields.2 h
  · refine checks_keeps ?_
    split
    · trivial
    · refine { h with pending := fun p hp => ?_ }
      cases hp
      exact Nat.le_of_lt_succ (fieldAt_lt r.fields 0 4)
  · refine checks_keeps (same ?_); (repeat' split) <;> simp
  · refine checks_keeps ?_; split <;> exact same rfl
  · refine checks_keeps ?_; (repeat' split) <;> first | trivial | exact same (declare_time ..)
  · exact checks_keeps (onSource_keeps fun i => same (amend_time ..))
  · refine checks_keeps (onSource_keeps fun i => ?_); split
    · trivial
    · exact same (retire_time ..)
  · refine checks_keeps (onSource_keeps fun i => ?_); split
    · exact h
    · exact same (suspend_time ..)
  · refine checks_keeps (onSource_keeps fun i => ?_); split
    · exact same rfl
    · exact h
  · refine checks_keeps ?_; split
    · trivial
    · refine same ?_; split <;> rfl
  · refine checks_keeps (onView_keeps fun v => ?_)
    dsimp only
    (repeat' split) <;> first | trivial | exact same rfl
  · refine checks_keeps (onView_keeps fun v => ?_); split
    · exact same rfl
    · trivial
  · refine checks_keeps (onView_keeps fun v => same ?_); split <;> rfl
  · exact checks_keeps (same (by simp))
  · refine checks_keeps (same ?_); split <;> rfl
  · refine checks_keeps ?_; split
    · trivial
    · exact { h with }
  · refine checks_keeps (State.Clocked.of_time (s := { s with time :=
      { s.time with cadenceMark := none } }) { h with } (by simp [stopPart]))
  · exact checks_keeps (same (by simp))
  · refine checks_keeps (same ?_); split <;> rfl
  · exact checks_keeps (same (windowReset_time s))
  · exact checks_keeps trivial
  · exact checks_keeps (same (zeroCounters_time s))
  · exact checks_keeps (same rfl)
  · exact checks_keeps (same rfl)
  · trivial

theorem executeHead_clocked {isCode : Nat → Bool} {s : State} (h : s.Clocked) :
    (executeHead isCode executionOf s).Clocked :=
  executeHead_keeps h h (h.of_time rfl) (fun r => executionOf_clocked r (h.of_time rfl))
    (fun r st b t _ ht => ht.of_time (finishRequest_time ..)) (fun t ht => ht.of_time (by simp))
    (fun r _ => h.of_time (by simp))

/-! ## Every command -/

/-- The end of a transmission on the Command Link (R164): the line is free and what was sent is counted, the
head SET leaves its queue, the device reset follows (R162), or nothing was sent. -/
theorem commandTransmissionEnd_cases (s : State) :
    (∃ c, commandTransmissionEnd s =
      transmitChoice { s with command := { s.command with line := none, counters := c } }) ∨
    commandTransmissionEnd s = transmitChoice (s.modifyQueue .cl ReleaseQueue.sentHead) ∨
    commandTransmissionEnd s = deviceReset s ∨ commandTransmissionEnd s = s := by
  unfold commandTransmissionEnd
  split
  · split
    · exact .inr (.inr (.inl rfl))
    · exact .inl ⟨_, rfl⟩
  · exact .inl ⟨_, rfl⟩
  · split
    · exact .inr (.inl rfl)
    · exact .inr (.inr (.inr rfl))

theorem deviceReset_clocked (s : State) : (deviceReset s).Clocked := by
  constructor <;> simp only [deviceReset, State.reset, TimeRef.reset] <;> decide

theorem operationsKeep_clocked : OperationsKeep State.Clocked where
  reset s p _ := (deviceReset_clocked s).of_time rfl
  pins s p h := h.of_time rfl
  request s h := executeHead_clocked h
  ppsEdge s h := ppsEdge_clocked h
  check s h := by
    unfold reachCheck
    split
    · exact whenReached_clocked (fun s => ppsCheck_clocked) h
    · exact h
  lastGrain s h := whenReached_clocked (fun s h => { h with }) h
  cadence s h := by
    unfold reachCadence
    split
    · refine whenReached_clocked (fun s h => State.Clocked.of_time (s := { s with time := 
        { s.time with cadenceMark := some _ } }) { h with } (cadence_time ..)) h
    · exact h
  deadline n s h := by
    unfold reachDeadline
    (repeat' split) <;> first | exact h | exact whenReached_clocked (fun s h => h.of_time (by simp)) h
  ingestByte l b s h := h.of_time (by simp)
  placement s h := h.of_time (by unfold placementStep; (repeat' split) <;> simp)
  description s h := h.of_time (by unfold descriptionHandling; (repeat' split) <;> simp)
  handOver s h := h.of_time (by simp)
  assemblyEnd s h := h.of_time (by unfold assemblyEnd; (repeat' split) <;> simp)
  transmissionEnd l s h := h.of_time (by simp)
  look l s h := h.of_time (by simp)
  inhibit s h := h.of_time (by simp)
  commandByte b s h := h.of_time (by simp)
  transmitted s h := by
    obtain ⟨_, e⟩ | e | e | e := commandTransmissionEnd_cases s <;> rw [e]
    · exact h.of_time (transmitChoice_time _)
    · exact h.of_time (transmitChoice_time _)
    · exact deviceReset_clocked s
    · exact h

/-- Settles O9: the advance of local time ends at its last grain, an edge and a step move it to a second in
range, and a request writes its values only where they are in range. -/
theorem stepsKeepTheClockInRange : Obligations.StepsKeepTheClockInRange :=
  operationsKeep_clocked.step (fun _ _ h => h.of_time rfl) (fun _ => tick_clocked)

end Sys2Proof.Machine

/-! What the part's commands are made of: the operations on single items that the events of the Time
Reference, the Release Controller and the requests are composed of. A property of states that each of them
keeps is kept by every such event and by the effect of every request. -/

namespace Sys2Proof.Machine

/-- What each operation on single items keeps. A slot is opened, and a record inserted, only where the
checks of R86 and R87 have passed. -/
structure PrimitivesKeep (Q : State → Prop) : Prop where
  time : ∀ s t, Q s → Q { s with time := t }
  notice : ∀ c x d s, Q s → Q (raiseNotice c x d s)
  flag : ∀ f s, Q s → Q (setFlag f s)
  entry : ∀ i e s, Q s → Q (s.setEntry i e)
  emptyHold : ∀ i s, Q s → Q (s.emptyHold i)
  count : ∀ f s, Q s → Q (s.countWindow f)
  close : ∀ n r s, Q s → Q (closeSlot n r s)
  evaluateAll : ∀ s, Q s → Q (evaluateAll s).1
  evaluateSlot : ∀ n s, Q s → Q (evaluateSlot n s).1
  take : ∀ s, Q s → Q (takeIfIdle s).1
  overdue : ∀ n s, Q s → Q { s with window := { s.window with
    slots := tableModify n (fun slot => { slot with overdue := true }) s.window.slots } }
  opened : ∀ n o s, s.slot? n = none → roomFor n s.window.slots = true → Q s → Q (openSlot n o s)
  insert : ∀ i r s, s.window.freeRecords ≠ 0 →
    (s.slot? r.instant = none → roomFor r.instant s.window.slots = true) →
    (∀ slot, s.slot? r.instant = some slot → tableFind i slot.contributors = none) →
    Q s → Q (insertRecord i r s)
  release : ∀ n s, s.assembler.current = some n → Q s → Q (releaseSlot n s)
  unknown : ∀ f s, Q s → Q (recordUnknown f s)
  endDispatch : ∀ s, Q s → Q (endDispatch s)
  grid : ∀ s g, Q s → Q { s with grid := g }
  config : ∀ s c, Q s → Q { s with window := { s.window with config := c } }
  emptyLog : ∀ s, Q s → Q { s with ingest := { s.ingest with log := [] } }
  applyIngest : ∀ f s, Q s → Q (applyIngest f s)
  clearLinks : ∀ s, Q s → Q (clearLinkCounters s)
  declare : ∀ f i s, Q s → Q (declare f i s)
  view : ∀ v f s, Q s → Q (s.modifyView v f)
  setting : ∀ l n s, Q s → Q (applySetting l n s)
  clearQueues : ∀ s, Q s → Q (clearQueueCounters s)
  start : ∀ s, Q s → Q (startPart s)
  draining : ∀ s, Q s → Q { s with reporting := { s.reporting with opState := .draining } }
  windowReset : ∀ s, Q s → Q (windowReset s)
  zeroCounters : ∀ s, Q s → Q (zeroCounters s)
  faults : ∀ s f, Q s → Q { s with reporting := { s.reporting with faults := f } }
  classes : ∀ s c e, Q s → Q { s with reporting :=
    { s.reporting with classes := c, alertEnables := e } }

namespace PrimitivesKeep

variable {Q : State → Prop} {s : State}

/-! ## The Time Reference -/

theorem missingPps (keep : PrimitivesKeep Q) (h : Q s) : Q (missingPps s) := by
  unfold Machine.missingPps
  split
  · exact h
  · exact h
  · exact keep.notice _ _ _ _ (keep.time _ _ h)
  · split
    · exact keep.time _ _ h
    · exact keep.notice _ _ _ _ (keep.flag _ _ (keep.time _ _ h))

theorem ppsCheck (keep : PrimitivesKeep Q) (h : Q s) : Q (ppsCheck s) := by
  unfold Machine.ppsCheck
  dsimp only
  split
  · exact keep.time _ _ h
  · exact keep.missingPps (keep.time _ _ h)

theorem capture (keep : PrimitivesKeep Q) (b : Nat) (h : Q s) : Q (capture b s) := by
  unfold Machine.capture
  dsimp only
  split
  · exact keep.notice _ _ _ _ (keep.time _ _ h)
  · exact keep.time _ _ h

theorem outlierFreeRun (keep : PrimitivesKeep Q) (h : Q s) : Q (outlierFreeRun s) := by
  have ended := keep.time s { s.time with outlierRun := 0 } h
  unfold Machine.outlierFreeRun
  dsimp only
  split
  · exact keep.notice _ _ _ _ (keep.flag _ _ (keep.time _ _ ended))
  · exact keep.notice _ _ _ _ (keep.flag _ _ (keep.time _ _ ended))
  · exact ended
  · exact ended

theorem outlier (keep : PrimitivesKeep Q) (h : Q s) : Q (outlier s) := by
  unfold Machine.outlier
  split
  · exact keep.time _ _ h
  · split
    · exact keep.notice _ _ _ _ (keep.time _ _ h)
    · exact keep.outlierFreeRun h

theorem ppsEdge (keep : PrimitivesKeep Q) (h : Q s) : Q (ppsEdge s) := by
  unfold Machine.ppsEdge
  split
  · exact keep.capture _ h
  · exact keep.outlier h

theorem advanceTo (keep : PrimitivesKeep Q) (v : Nat) (h : Q s) : Q (advanceTo v s) := by
  unfold Machine.advanceTo
  split
  · exact h
  · exact keep.time _ _ h

theorem whenReached (keep : PrimitivesKeep Q) (v : Nat) {f : State → State}
    (effect : ∀ s, Q s → Q (f s)) (h : Q s) : Q (whenReached v f s) := by
  unfold Machine.whenReached
  split
  · exact effect _ (keep.advanceTo v h)
  · exact h

theorem tick (keep : PrimitivesKeep Q) (h : Q s) : Q (tick s) := by
  unfold Machine.tick
  split
  · exact h
  · exact keep.advanceTo _ h

theorem reachCheck (keep : PrimitivesKeep Q) (h : Q s) : Q (reachCheck s) := by
  unfold Machine.reachCheck
  split
  · exact keep.whenReached _ (fun _ => keep.ppsCheck) h
  · exact h

theorem reachLastGrain (keep : PrimitivesKeep Q) (h : Q s) : Q (reachLastGrain s) :=
  keep.whenReached _ (fun _ => keep.time _ _) h

theorem setTimeValues (keep : PrimitivesKeep Q) (c k : Nat) (h : Q s) : Q (setTimeValues c k s) := by
  unfold Machine.setTimeValues
  dsimp only
  split
  · exact keep.ppsCheck (keep.time _ _ h)
  · exact keep.time _ _ h

/-! ## Closes and what follows them -/

theorem closeAll (keep : PrimitivesKeep Q) (l : List (Nat × CloseReason)) (h : Q s) :
    Q (closeAll l s) := by
  induction l generalizing s with
  | nil => exact h
  | cons p l ih => exact ih (keep.close _ _ _ h)

theorem completionWalk (keep : PrimitivesKeep Q) (h : Q s) : Q (completionWalk s) := by
  unfold Machine.completionWalk
  split
  · split
    · exact keep.closeAll _ h
    · exact h
  · exact h

theorem takeAndReevaluate (keep : PrimitivesKeep Q) (h : Q s) : Q (takeAndReevaluate s) := by
  have taken := keep.take s h
  have evaluated := keep.evaluateAll _ taken
  unfold Machine.takeAndReevaluate Machine.reevaluateAfterTake
  dsimp only
  split
  · split
    · exact keep.completionWalk evaluated
    · exact evaluated
  · exact taken

theorem settle (keep : PrimitivesKeep Q) (h : Q s) : Q (settle s) :=
  keep.takeAndReevaluate (keep.completionWalk h)

theorem reevaluate (keep : PrimitivesKeep Q) (h : Q s) : Q (reevaluate s) := by
  have evaluated := keep.evaluateAll s h
  unfold Machine.reevaluate
  dsimp only
  split
  · exact keep.settle evaluated
  · exact evaluated

theorem evaluatePlaced (keep : PrimitivesKeep Q) (n : Nat) (h : Q s) : Q (evaluatePlaced n s) := by
  have evaluated := keep.evaluateSlot n s h
  unfold Machine.evaluatePlaced
  dsimp only
  split
  · exact keep.settle evaluated
  · exact evaluated

theorem evaluatePressure (keep : PrimitivesKeep Q) (h : Q s) : Q (evaluatePressure s) := by
  unfold Machine.evaluatePressure
  generalize s.unclosedSlots.length = fuel
  induction fuel generalizing s with
  | zero => exact h
  | succ fuel ih =>
    unfold pressureCloses
    split
    · split
      · exact h
      · exact ih (keep.settle (keep.flag _ _ (keep.close _ _ _ h)))
    · exact h

/-! ## The window's events of local time -/

theorem deadlineExpiry (keep : PrimitivesKeep Q) (n : Nat) (h : Q s) : Q (deadlineExpiry n s) := by
  unfold Machine.deadlineExpiry
  split
  · have marked := keep.count (fun c => { c with overdueMarks := bump c.overdueMarks }) _
      (keep.overdue n s h)
    unfold markOverdue
    dsimp only
    split
    · exact keep.notice _ _ _ _ marked
    · exact marked
  · exact keep.settle (keep.closeAll _ h)

theorem expireOpened (keep : PrimitivesKeep Q) (n : Nat) (h : Q s) : Q (expireOpened n s) := by
  unfold Machine.expireOpened
  split
  · split
    · exact keep.deadlineExpiry n h
    · exact h
  · exact h

theorem cadence (keep : PrimitivesKeep Q) (n : Nat) (h : Q s) : Q (cadence n s) := by
  unfold Machine.cadence
  split
  · exact h
  · split
    · exact h
    next absent =>
      split
      next room =>
        exact keep.expireOpened n (keep.opened n _ s (Option.not_isSome_iff_eq_none.1 absent) room h)
      · exact keep.settle (keep.flag _ _ (keep.count _ _ (keep.closeAll _ h)))

theorem reachCadence (keep : PrimitivesKeep Q) (h : Q s) : Q (reachCadence s) := by
  unfold Machine.reachCadence
  split
  · exact keep.whenReached _ (fun _ h => keep.cadence _ (keep.time _ _ h)) h
  · exact h

theorem reachDeadline (keep : PrimitivesKeep Q) (n : Nat) (h : Q s) : Q (reachDeadline n s) := by
  unfold Machine.reachDeadline
  split
  · split
    · exact keep.whenReached _ (fun _ => keep.deadlineExpiry n) h
    · exact h
  · exact h

/-! ## Placement, descriptions and the end of an assembly -/

theorem refuseSample (keep : PrimitivesKeep Q) (i : Nat) (r : SampleRefusal) (h : Q s) :
    Q (refuseSample i r s) := by
  have counted := keep.entry i { s.entry i with counters := countRefusal r (s.entry i).counters } s h
  unfold Machine.refuseSample
  split
  · exact keep.count _ _ counted
  · dsimp only
    unfold congestion
    split
    · exact counted
    · exact keep.notice _ _ _ _ (keep.flag _ _ counted)
  · exact counted

/-- The checks of R83, R86 and R87 leave room for the record of a sample that passes them. -/
theorem windowChecks_room {i : Nat} {e : Entry} {n : Nat} (pass : windowChecks s i e n = none) :
    s.window.freeRecords ≠ 0 ∧ (s.slot? n = none → roomFor n s.window.slots = true) ∧
    ∀ slot, s.slot? n = some slot → tableFind i slot.contributors = none := by
  unfold windowChecks at pass
  split_ifs at pass with duplicate late early noSlot full
  refine ⟨full, fun absent => by simpa [absent] using noSlot, fun slot present => ?_⟩
  simpa [isDuplicate, late, present] using duplicate

/-- A sample that passes the eleven checks finds room for its record (R83, R86, R87). -/
theorem placementChecks_room {i : Nat} {e : Entry} {f : IngestFrame} {p : SamplePoint}
    (pass : placementChecks s i e f = .ok p) : windowChecks s i e p.instant = none := by
  unfold placementChecks at pass
  split_ifs at pass
  split at pass
  · cases pass
  · split at pass
    · split at pass <;> cases pass
    · split at pass
      · cases pass
      next none => cases pass; exact none

theorem acceptSample (keep : PrimitivesKeep Q) {i : Nat} {e : Entry} {f : IngestFrame}
    {p : SamplePoint} (pass : windowChecks s i e p.instant = none) (h : Q s) :
    Q (acceptSample i f p s) := by
  obtain ⟨free, room, new⟩ := windowChecks_room pass
  have inserted := keep.entry i ((s.entry i).accept p.instant (measuredLatency
    (f.stampSecond * Config.grainsPerSecond + f.stampFraction) p.grains)) _
    (keep.insert i (fillRecord i (s.entry i) f.body p) s free room new h)
  unfold Machine.acceptSample
  dsimp only
  refine keep.evaluatePressure (keep.evaluatePlaced _ ?_)
  split
  · exact keep.notice _ _ _ _ inserted
  · exact inserted

theorem placementStep (keep : PrimitivesKeep Q) (h : Q s) : Q (placementStep s) := by
  have placed (d : Dispatch) : Q (Machine.endDispatch (placeSample d s)) := by
    refine keep.endDispatch _ ?_
    unfold placeSample
    dsimp only
    split
    · split
      · exact keep.refuseSample _ _ h
      next pass => exact keep.acceptSample (placementChecks_room pass) h
    · exact keep.unknown _ _ h
  unfold Machine.placementStep
  split
  · split
    · dsimp only
      split
      · exact keep.expireOpened _ (placed _)
      · exact placed _
    · exact h
  · exact h

theorem descriptionHandling (keep : PrimitivesKeep Q) (h : Q s) : Q (descriptionHandling s) := by
  have counted (i : Nat) (f : SourceCounters → SourceCounters) : Q (s.countSource i f) :=
    keep.entry _ _ _ h
  have applied (i : Nat) (shape : SourceShape) : Q (applyDescription i shape s) := by
    unfold applyDescription
    dsimp only
    split
    · exact counted ..
    · have changed {t : State} (ht : Q t) := keep.notice .source (.source i)
        SourceCause.shapeChanged.code _ (keep.emptyHold i _
          (keep.entry i (Entry.reshape shape (t.entry i)) t ht))
      split
      · exact keep.reevaluate (changed (counted ..))
      · exact changed (counted ..)
  unfold Machine.descriptionHandling
  split
  · split
    · refine keep.endDispatch _ ?_
      unfold describe
      dsimp only
      split
      · split
        · exact counted ..
        · split
          · exact counted ..
          · split
            · exact applied ..
            · exact counted ..
      · exact keep.unknown _ _ h
    · exact h
  · exact h

theorem assemblyEnd (keep : PrimitivesKeep Q) (drain : ∀ s, Q s → Q (drainEnd s)) (h : Q s) :
    Q (assemblyEnd s) := by
  unfold Machine.assemblyEnd
  split
  next current _ => exact drain _ (keep.takeAndReevaluate (keep.release _ _ current h))
  · exact h

/-! ## The effects of requests -/

theorem amend (keep : PrimitivesKeep Q) (o : SourceOptions) (i : Nat) (h : Q s) : Q (amend o i s) := by
  have written := keep.entry i ((s.entry i).amended o) s h
  unfold Machine.amend
  dsimp only
  split
  · split
    · exact keep.reevaluate (keep.notice _ _ _ _ written)
    · split
      · exact keep.reevaluate written
      · exact written
  · exact written

theorem retire (keep : PrimitivesKeep Q) (i : Nat) (h : Q s) : Q (retire i s) := by
  have left : Q (if s.sampleRemains (s.entry i) then
      s.setEntry i { s.entry i with state := .retiring } else endEntry i s) := by
    split
    · exact keep.entry _ _ _ h
    · exact keep.emptyHold _ _ (keep.entry _ _ _ h)
  unfold Machine.retire
  dsimp only
  split
  · exact keep.reevaluate left
  · exact left

theorem suspend (keep : PrimitivesKeep Q) (i : Nat) (h : Q s) : Q (suspend i s) := by
  have left := keep.entry i { s.entry i with state := .suspended } s h
  unfold Machine.suspend
  dsimp only
  split
  · exact keep.reevaluate left
  · exact left

/-- The effect of every request is made of the operations on single items. -/
theorem executionOf (keep : PrimitivesKeep Q) (r : Request) (h : Q s) : (executionOf r s).Keeps Q := by
  unfold Machine.executionOf
  split
  · exact checks_keeps h
  · exact checks_keeps h
  · refine checks_keeps ?_
    split_ifs <;> first | trivial | exact keep.grid _ _ h
  · exact checks_keeps (keep.config _ _ h)
  · exact checks_keeps (keep.setTimeValues _ _ h)
  · refine checks_keeps ?_
    split_ifs <;> first | trivial | exact keep.time _ _ h
  · refine checks_keeps (show Q _ from ?_)
    have applied := keep.applyIngest r.fields s h
    split_ifs
    · exact keep.clearLinks _ applied
    · exact keep.clearLinks _ h
    · exact applied
    · exact h
  · refine checks_keeps (show Q _ from ?_)
    split_ifs <;> first | exact h | exact keep.emptyLog _ h
  · refine checks_keeps ?_
    split
    · trivial
    · split
      · trivial
      · exact keep.declare _ _ _ h
  · exact checks_keeps (onSource_keeps fun i => keep.amend _ _ h)
  · refine checks_keeps (onSource_keeps fun i => ?_)
    split
    · trivial
    · exact keep.retire _ h
  · refine checks_keeps (onSource_keeps fun i => ?_)
    split
    · exact h
    · exact keep.suspend _ h
  · refine checks_keeps (onSource_keeps fun i => ?_)
    split
    · exact keep.entry _ _ _ h
    · exact h
  · refine checks_keeps ?_
    split
    · trivial
    · show Q _
      split_ifs <;> first | exact h | exact keep.entry _ _ _ h
  · refine checks_keeps (onView_keeps fun v => ?_)
    dsimp only
    split
    · trivial
    · split
      · trivial
      · show Q _
        split <;> exact keep.view _ _ _ h
  · refine checks_keeps (onView_keeps fun v => ?_)
    split
    · exact keep.view _ _ _ h
    · trivial
  · refine checks_keeps (onView_keeps fun v => show Q _ from ?_)
    split_ifs <;> first | exact h | exact keep.view _ _ _ h
  · exact checks_keeps (keep.setting _ _ _ (keep.setting _ _ _ h))
  · refine checks_keeps (show Q _ from ?_)
    split_ifs <;> first | exact h | exact keep.clearQueues _ h
  · refine checks_keeps ?_
    split_ifs <;> first | trivial | exact keep.start _ h
  · exact checks_keeps (keep.settle (keep.closeAll _ (keep.time _ _ (keep.draining _ h))))
  · exact checks_keeps (keep.settle (keep.closeAll _ h))
  · refine checks_keeps (show Q _ from ?_)
    split_ifs <;> first | exact h | exact keep.count _ _ h
  · exact checks_keeps (keep.windowReset _ h)
  · exact checks_keeps trivial
  · exact checks_keeps (keep.zeroCounters _ h)
  · exact checks_keeps (keep.faults _ _ h)
  · exact checks_keeps (keep.classes _ _ _ h)
  · trivial

end PrimitivesKeep

end Sys2Proof.Machine

/-! One slot per instant, and 65,536 sample records in all (R97, R100): what each operation on the slot map
does to them, and that every step keeps them. -/

namespace Sys2Proof.Machine

namespace State.Conserved

variable {s t : State} {n : Nat}

/-- The invariant speaks of the slot map and the count of free records alone. -/
theorem of_window (h : s.Conserved) (slots : t.window.slots = s.window.slots)
    (free : t.window.freeRecords = s.window.freeRecords) : t.Conserved :=
  ⟨slots ▸ h.sorted, by rw [slots, free]; exact h.total⟩

/-- A slot that is written again with as many records keeps the invariant. -/
theorem of_insert {v w : Slot} (h : s.Conserved) (found : s.slot? n = some v)
    (slots : t.window.slots = tableInsert n w s.window.slots)
    (free : t.window.freeRecords = s.window.freeRecords)
    (records : w.contributors = v.contributors) : t.Conserved := by
  refine ⟨slots ▸ tableInsert_sorted h.sorted, ?_⟩
  have attached := attachedRecords_insert n w s.window.slots h.sorted
  have total := h.total
  rw [State.slot?] at found
  simp only [found, recordsAt, records] at attached
  rw [slots, free]
  omega

theorem of_modify {f : Slot → Slot} (h : s.Conserved)
    (slots : t.window.slots = tableModify n f s.window.slots)
    (free : t.window.freeRecords = s.window.freeRecords)
    (records : ∀ slot, (f slot).contributors = slot.contributors) : t.Conserved := by
  unfold tableModify at slots
  split at slots
  next v found => exact h.of_insert found slots free (records v)
  · exact h.of_window slots free

end State.Conserved

/-! ## Each operation on the slot map -/

section
variable {s : State} {n : Nat}

theorem closeSlot_conserved (r : CloseReason) (h : s.Conserved) : (closeSlot n r s).Conserved := by
  unfold closeSlot
  split
  · exact h
  next slot found =>
    split
    · exact h.of_insert found rfl rfl rfl
    · exact h

theorem evaluateSlot_conserved (h : s.Conserved) : (evaluateSlot n s).1.Conserved := by
  unfold evaluateSlot
  split
  · exact h
  next slot found =>
    split
    · exact h.of_insert found rfl rfl rfl
    · exact h

theorem attachedRecords_map {g : Nat × Slot → Slot}
    (records : ∀ p, (g p).contributors = p.2.contributors) (l : Table Slot) :
    attachedRecords (l.map fun p => (p.1, g p)) = attachedRecords l := by
  induction l with
  | nil => rfl
  | cons p l ih => simp only [List.map_cons, attachedRecords, records, ih]

theorem evaluated_contributors (rate n : Nat) (sources : Table Entry) (slot : Slot) :
    (evaluated rate n sources slot).contributors = slot.contributors := by
  unfold evaluated; split <;> rfl

theorem evaluateAll_conserved (h : s.Conserved) : (evaluateAll s).1.Conserved := by
  refine ⟨evaluateAll_slotsSorted s h.sorted, ?_⟩
  have attached := attachedRecords_map
    (fun p => evaluated_contributors s.grid.rate p.1 s.sources p.2) s.window.slots
  exact (congrArg (s.window.freeRecords + ·) attached).trans h.total

theorem takeIfIdle_conserved (h : s.Conserved) : (takeIfIdle s).1.Conserved := by
  unfold takeIfIdle
  split
  · exact h.of_modify (f := fun slot => { slot with state := .assembling })
      (by rw [takeHead_window]) (by rw [takeHead_window]) (fun _ => rfl)
  · exact h

/-- A slot opens with an empty list (R91, R101). -/
theorem openSlot_conserved (o : Opener) (absent : s.slot? n = none) (h : s.Conserved) :
    (openSlot n o s).Conserved := by
  refine ⟨tableInsert_sorted h.sorted, ?_⟩
  have attached := attachedRecords_insert n
    ⟨.opened, o, deadlineNow s n, [], none, false⟩ s.window.slots h.sorted
  have total := h.total
  rw [State.slot?] at absent
  simp only [absent, recordsAt, List.length_nil] at attached
  simp only [openSlot]
  omega

/-- A record joins a slot that is in the map (R88, R92). -/
theorem insertRecord_of_some {i : Nat} {r : SampleRecord} {slot : Slot}
    (found : s.slot? r.instant = some slot) : insertRecord i r s =
    { s with window := { s.window with
      freeRecords := s.window.freeRecords - 1
      slots := tableInsert r.instant
        { slot with contributors := tableInsert i r slot.contributors } s.window.slots } } := by
  rw [State.slot?] at found
  simp [insertRecord, State.slot?, found, tableModify]

/-- A record opens the slot of its instant where the map holds none (R88, R91). -/
theorem insertRecord_of_none {i : Nat} {r : SampleRecord} (absent : s.slot? r.instant = none) :
    insertRecord i r s = { s with window := { s.window with
      freeRecords := s.window.freeRecords - 1
      slots := tableInsert r.instant
        ⟨.opened, .arrival, deadlineNow s r.instant, [(i, r)], none, false⟩ s.window.slots
      counters := { s.window.counters with
        openedByArrival := bump s.window.counters.openedByArrival } } } := by
  rw [State.slot?] at absent
  have single : tableInsert i r ([] : Table SampleRecord) = [(i, r)] := rfl
  simp [insertRecord, State.slot?, absent, tableModify, openSlot, deadlineNow, single]

/-- The record that a contributor list gains is the one taken from the free ones (R88, R92). -/
theorem insertRecord_conserved {i : Nat} {r : SampleRecord} (free : s.window.freeRecords ≠ 0)
    (new : ∀ slot, s.slot? r.instant = some slot → tableFind i slot.contributors = none)
    (h : s.Conserved) : (insertRecord i r s).Conserved := by
  have total := h.total
  cases found : s.slot? r.instant with
  | some slot =>
    have attached := attachedRecords_insert r.instant
      { slot with contributors := tableInsert i r slot.contributors } s.window.slots h.sorted
    rw [insertRecord_of_some found]
    rw [State.slot?] at found
    simp only [found, recordsAt, tableInsert_length_of_none (new slot found)] at attached
    refine ⟨tableInsert_sorted h.sorted, ?_⟩
    dsimp only
    omega
  | none =>
    have attached := attachedRecords_insert r.instant
      ⟨.opened, .arrival, deadlineNow s r.instant, [(i, r)], none, false⟩ s.window.slots h.sorted
    rw [insertRecord_of_none found]
    rw [State.slot?] at found
    simp only [found, recordsAt, List.length_cons, List.length_nil] at attached
    refine ⟨tableInsert_sorted h.sorted, ?_⟩
    dsimp only
    omega

/-- The records of the slot whose assembly ends become free. -/
theorem releaseSlot_freeRecords (n : Nat) (s : State) : (releaseSlot n s).window.freeRecords =
    s.window.freeRecords + recordsAt (s.slot? n) := by
  refine (congrArg Window.freeRecords (releaseSlot_window n s)).trans ?_
  cases s.slot? n <;> rfl

/-- The records of a slot that leaves the map are free again (R123). -/
theorem releaseSlot_conserved (h : s.Conserved) : (releaseSlot n s).Conserved := by
  have slots : (releaseSlot n s).window.slots = tableErase n s.window.slots := by
    rw [releaseSlot_window]
  refine ⟨slots ▸ tableErase_sorted h.sorted, ?_⟩
  have erased : attachedRecords (tableErase n s.window.slots) + recordsAt (s.slot? n) =
    attachedRecords s.window.slots := attachedRecords_erase n s.window.slots h.sorted
  have total := h.total
  rw [releaseSlot_freeRecords, slots]
  omega

theorem emptyMap_conserved (h : s.window.slots = []) (free : s.window.freeRecords = 65536) :
    s.Conserved :=
  ⟨h ▸ List.Pairwise.nil, by rw [h, free]; rfl⟩

end

/-! ## Every command -/

theorem primitivesKeep_conserved : PrimitivesKeep State.Conserved where
  time _ _ h := h.of_window rfl rfl
  notice _ _ _ _ h := h.of_window (by simp) (by simp)
  flag _ _ h := h.of_window rfl rfl
  entry _ _ _ h := h.of_window rfl rfl
  emptyHold _ _ h := h.of_window rfl rfl
  count _ _ h := h.of_window rfl rfl
  close _ r _ h := closeSlot_conserved r h
  evaluateAll _ h := evaluateAll_conserved h
  evaluateSlot _ _ h := evaluateSlot_conserved h
  take _ h := takeIfIdle_conserved h
  overdue _ _ h := h.of_modify rfl rfl (fun _ => rfl)
  opened _ o _ absent _ h := openSlot_conserved o absent h
  insert _ _ _ free _ new h := insertRecord_conserved free new h
  release _ _ _ h := releaseSlot_conserved h
  unknown _ _ h := h.of_window (by simp) (by simp)
  endDispatch _ h := h.of_window (by simp) (by simp)
  grid _ _ h := h.of_window rfl rfl
  config _ _ h := h.of_window rfl rfl
  emptyLog _ h := h.of_window rfl rfl
  applyIngest _ _ h := h.of_window (by simp) (by simp)
  clearLinks _ h := h.of_window rfl rfl
  declare _ _ _ h := h.of_window (by simp) (by simp)
  view _ _ _ h := h.of_window rfl rfl
  setting _ _ _ h := h.of_window (by simp) (by simp)
  clearQueues _ h := h.of_window rfl rfl
  start _ h := h.of_window rfl rfl
  draining _ h := h.of_window rfl rfl
  windowReset _ _ := emptyMap_conserved (by simp [windowReset]) (by simp [windowReset]; rfl)
  zeroCounters _ h := h.of_window (by simp [zeroCounters, State.countWindow])
    (by simp [zeroCounters, State.countWindow])
  faults _ _ h := h.of_window rfl rfl
  classes _ _ _ h := h.of_window rfl rfl

theorem operationsKeep_conserved : OperationsKeep State.Conserved where
  reset _ _ _ := emptyMap_conserved rfl rfl
  pins _ _ h := h.of_window rfl rfl
  request _ h := executeHead_keeps h h (h.of_window rfl rfl)
    (fun r => primitivesKeep_conserved.executionOf r (h.of_window rfl rfl))
    (fun _ _ _ _ _ ht => ht.of_window (by simp) (by simp))
    (fun _ ht => ht.of_window (by simp) (by simp)) (fun _ _ => h.of_window (by simp) (by simp))
  ppsEdge _ h := primitivesKeep_conserved.ppsEdge h
  check _ h := primitivesKeep_conserved.reachCheck h
  lastGrain _ h := primitivesKeep_conserved.reachLastGrain h
  cadence _ h := primitivesKeep_conserved.reachCadence h
  deadline n _ h := primitivesKeep_conserved.reachDeadline n h
  ingestByte _ _ _ h := h.of_window (by simp) (by simp)
  placement _ h := primitivesKeep_conserved.placementStep h
  description _ h := primitivesKeep_conserved.descriptionHandling h
  handOver _ h := h.of_window (by simp) (by simp)
  assemblyEnd _ h := primitivesKeep_conserved.assemblyEnd
    (fun _ h => h.of_window (by simp) (by simp)) h
  transmissionEnd _ _ h := h.of_window (by simp) (by simp)
  look _ _ h := h.of_window (by simp) (by simp)
  inhibit _ h := h.of_window (by simp) (by simp)
  commandByte _ _ h := h.of_window (by simp) (by simp)
  transmitted s h := by
    obtain ⟨_, e⟩ | e | e | e := commandTransmissionEnd_cases s <;> rw [e]
    · exact h.of_window (by simp) (by simp)
    · exact h.of_window (by simp) (by simp)
    · exact emptyMap_conserved rfl rfl
    · exact h

/-- Settles O8: each operation on the slot map writes one slot of it, and the records a slot gains or gives
back are those the free count loses or gains. -/
theorem stepsConserveRecords : Obligations.StepsConserveRecords :=
  operationsKeep_conserved.step (fun _ _ h => h.of_window rfl rfl)
    (fun _ => primitivesKeep_conserved.tick)

end Sys2Proof.Machine

/-! The ingest side within its capacities (R32, R39, R44, R47): every FIFO, every passed-over count and the
Unknown Source Log, through every command. -/

namespace Sys2Proof.Machine

/-- The FIFOs, the passed-over counts and the Unknown Source Log are within their capacities. -/
structure State.IngestBounded (s : State) : Prop where
  link (l : LinkId) : (s.link l).bounded
  log : s.ingest.log.length ≤ Config.logCapacity

section
variable {s t : State}

theorem State.IngestBounded.of_parts (h : s.IngestBounded) (links : t.links = s.links)
    (log : t.ingest.log.length ≤ s.ingest.log.length) : t.IngestBounded :=
  ⟨fun l => by rw [State.link, links]; exact h.link l, log.trans h.log⟩

theorem State.IngestBounded.modifyLink {l : LinkId} {f : IngestLink → IngestLink}
    (h : s.IngestBounded) (bounded : (f (s.link l)).bounded) : (s.modifyLink l f).IngestBounded := by
  refine ⟨fun m => ?_, h.log⟩
  obtain rfl | other := eq_or_ne m l
  · rw [State.link_modifyLink_self]; exact bounded
  · rw [State.link_modifyLink_ne s other]; exact h.link m

theorem State.IngestBounded.countLink {l : LinkId} {f : LinkCounters → LinkCounters}
    (h : s.IngestBounded) : (s.countLink l f).IngestBounded :=
  h.modifyLink (h.link l)

/-! ## The Unknown Source Log -/

/-- A log within its capacity has room for an entry once its oldest has gone (R48). -/
theorem logRoom_length {log : List LogEntry} (h : log.length ≤ 16) : (logRoom log).length ≤ 15 := by
  by_cases room : log.length < 16
  · rw [logRoom_of_room room]
    omega
  · obtain ⟨before, oldest, after, split, _, _, e⟩ := logRoom_of_full (show log.length = 16 by omega)
    rw [e, List.length_append]
    rw [split, List.length_append, List.length_cons] at h
    omega

theorem recordUnknown_ingestBounded {f : IngestFrame} (h : s.IngestBounded) :
    (recordUnknown f s).IngestBounded := by
  have counted : (s.countLink f.link fun c =>
      { c with unknownFrames := bump c.unknownFrames }).IngestBounded := h.countLink
  unfold recordUnknown
  dsimp only
  split
  · exact counted.of_parts rfl (List.length_map _).le
  · refine State.IngestBounded.of_parts (s := { s.countLink f.link _ with ingest := _ })
      ⟨counted.link, ?_⟩ (raiseNotice_links ..) (by rw [raiseNotice_ingest])
    have room := logRoom_length counted.log
    rw [List.length_append]
    exact Nat.succ_le_succ room

/-! ## Grants -/

theorem passOver_ingestBounded {chosen l : LinkId} (h : s.IngestBounded) :
    (passOver chosen s l).IngestBounded := by
  unfold passOver
  split
  · exact h.modifyLink ⟨(h.link l).1, Nat.zero_le _⟩
  · split
    · exact h.modifyLink ⟨(h.link l).1, min_le_right ..⟩
    · exact h

theorem grantTo_ingestBounded {l : LinkId} {f : IngestFrame} {rest : List IngestFrame}
    (fits : rest.length ≤ Config.fifoCapacity) (h : s.IngestBounded) :
    (grantTo l f rest s).IngestBounded := by
  have passed : (LinkId.all.foldl (passOver l) s).IngestBounded := by
    refine List.foldlRecOn LinkId.all _ h fun t ht m _ => passOver_ingestBounded ht
  have granted := passed.modifyLink (l := l) (f := fun k => { k with
    fifo := rest, counters := { k.counters with granted := bump k.counters.granted } })
    ⟨fits, (passed.link l).2⟩
  unfold grantTo
  dsimp only
  split
  · exact granted.of_parts rfl le_rfl
  · exact recordUnknown_ingestBounded (granted.of_parts rfl le_rfl)

theorem grants_ingestBounded (fuel : Nat) (h : s.IngestBounded) : (grants fuel s).IngestBounded := by
  induction fuel generalizing s with
  | zero => exact h
  | succ fuel ih =>
    unfold grants
    split
    · exact h
    · split
      · exact h
      next l _ =>
        split
        · exact h
        next f rest waiting =>
          have fits := (h.link l).1
          rw [waiting, List.length_cons] at fits
          exact ih (grantTo_ingestBounded (Nat.le_of_succ_le fits) h)

theorem endDispatch_ingestBounded (h : s.IngestBounded) : (endDispatch s).IngestBounded :=
  grants_ingestBounded _ (h.of_parts rfl le_rfl)

/-! ## Reception -/

theorem offerFrame_ingestBounded {f : IngestFrame} (h : s.IngestBounded) :
    (offerFrame f s).IngestBounded := by
  unfold offerFrame
  split
  next room =>
    refine grants_ingestBounded _ (h.modifyLink ⟨?_, (h.link f.link).2⟩)
    rw [List.length_append]
    exact room
  · exact h.countLink.of_parts (congestion_links ..) (by rw [congestion_ingest])

theorem ingestByte_ingestBounded (l : LinkId) (b : Byte) (h : s.IngestBounded) :
    (ingestByte l b s).IngestBounded := by
  have walked : (s.modifyLink l fun k => { k with
      receiver := ((s.link l).receiver.take ingestLow ingestHigh b).1 }).IngestBounded :=
    h.modifyLink (h.link l)
  unfold ingestByte
  dsimp only
  split
  · split
    · exact walked
    · exact walked.countLink
    · exact walked.countLink
    · unfold completeFrame
      split
      · exact walked.countLink
      · split
        · exact walked.countLink
        · dsimp only
          split
          · exact offerFrame_ingestBounded walked
          · exact walked.countLink
  · exact h

/-! ## Requests -/

theorem IngestLink.switch_bounded {k : IngestLink} (on : Bool) (h : k.bounded) :
    (k.switch on).bounded := by
  unfold IngestLink.switch
  split
  · exact h
  · exact ⟨Nat.zero_le _, Nat.zero_le _⟩
  · exact h
  · exact h

theorem applyIngest_ingestBounded (f : List Byte) (h : s.IngestBounded) :
    (applyIngest f s).IngestBounded := by
  have applied : (LinkId.all.foldl (applyLink f) s).IngestBounded :=
    List.foldlRecOn LinkId.all _ h fun t ht l _ => ht.modifyLink (IngestLink.switch_bounded _ (ht.link l))
  exact applied.of_parts rfl le_rfl

theorem PerLink.get_map {α β : Type} (f : α → β) (p : PerLink α) (l : LinkId) :
    (p.map f).get l = f (p.get l) := by
  cases l <;> rfl

theorem clearLinkCounters_ingestBounded (h : s.IngestBounded) :
    (clearLinkCounters s).IngestBounded :=
  ⟨fun l => by
    rw [State.link, clearLinkCounters, PerLink.get_map]
    exact h.link l, h.log⟩

theorem reset_ingestBounded {s : State} (links : s.links = State.reset.links)
    (ingest : s.ingest = .reset) : s.IngestBounded := by
  refine ⟨fun l => ?_, by rw [ingest]; exact Nat.zero_le _⟩
  rw [State.link, links]
  cases l <;> exact ⟨Nat.zero_le _, Nat.zero_le _⟩

end

/-! ## Every command -/

theorem primitivesKeep_ingestBounded : PrimitivesKeep State.IngestBounded where
  time _ _ h := h.of_parts rfl le_rfl
  notice _ _ _ _ h := h.of_parts (by simp) (by simp)
  flag _ _ h := h.of_parts rfl le_rfl
  entry _ _ _ h := h.of_parts rfl le_rfl
  emptyHold _ _ h := h.of_parts rfl le_rfl
  count _ _ h := h.of_parts rfl le_rfl
  close _ _ _ h := h.of_parts (by simp) (by simp)
  evaluateAll _ h := h.of_parts rfl le_rfl
  evaluateSlot _ _ h := h.of_parts (by simp) (by simp)
  take _ h := h.of_parts (by simp) (by simp)
  overdue _ _ h := h.of_parts rfl le_rfl
  opened _ _ _ _ _ h := h.of_parts rfl le_rfl
  insert _ _ _ _ _ _ h := h.of_parts (by simp) (by simp)
  release _ _ _ h := h.of_parts (by simp) (by simp)
  unknown _ _ h := recordUnknown_ingestBounded h
  endDispatch _ h := endDispatch_ingestBounded h
  grid _ _ h := h.of_parts rfl le_rfl
  config _ _ h := h.of_parts rfl le_rfl
  emptyLog _ h := h.of_parts rfl (Nat.zero_le _)
  applyIngest f _ h := applyIngest_ingestBounded f h
  clearLinks _ h := clearLinkCounters_ingestBounded h
  declare _ _ _ h := h.of_parts (by simp) (List.length_filter_le ..)
  view _ _ _ h := h.of_parts rfl le_rfl
  setting _ _ _ h := h.of_parts (by simp) (by simp)
  clearQueues _ h := h.of_parts rfl le_rfl
  start _ h := h.of_parts rfl le_rfl
  draining _ h := h.of_parts rfl le_rfl
  windowReset _ h := h.of_parts (by simp) (by simp)
  zeroCounters s h :=
    (clearLinkCounters_ingestBounded (h.of_parts (clearEntries_links s.sourceIndices s)
      (by simp))).of_parts rfl le_rfl
  faults _ _ h := h.of_parts rfl le_rfl
  classes _ _ _ h := h.of_parts rfl le_rfl

theorem operationsKeep_ingestBounded : OperationsKeep State.IngestBounded where
  reset _ _ _ := reset_ingestBounded rfl rfl
  pins _ _ h := h.of_parts rfl le_rfl
  request _ h := executeHead_keeps h h (h.of_parts rfl le_rfl)
    (fun r => primitivesKeep_ingestBounded.executionOf r (h.of_parts rfl le_rfl))
    (fun _ _ _ _ _ ht => ht.of_parts (by simp) (by simp))
    (fun _ ht => ht.of_parts (by simp) (by simp)) (fun _ _ => h.of_parts (by simp) (by simp))
  ppsEdge _ h := primitivesKeep_ingestBounded.ppsEdge h
  check _ h := primitivesKeep_ingestBounded.reachCheck h
  lastGrain _ h := primitivesKeep_ingestBounded.reachLastGrain h
  cadence _ h := primitivesKeep_ingestBounded.reachCadence h
  deadline n _ h := primitivesKeep_ingestBounded.reachDeadline n h
  ingestByte l b _ h := ingestByte_ingestBounded l b h
  placement _ h := primitivesKeep_ingestBounded.placementStep h
  description _ h := primitivesKeep_ingestBounded.descriptionHandling h
  handOver _ h := h.of_parts (by simp) (by simp)
  assemblyEnd _ h := primitivesKeep_ingestBounded.assemblyEnd
    (fun _ h => h.of_parts (by simp) (by simp)) h
  transmissionEnd _ _ h := h.of_parts (by simp) (by simp)
  look _ _ h := h.of_parts (by simp) (by simp)
  inhibit _ h := h.of_parts (by simp) (by simp)
  commandByte _ _ h := h.of_parts (by simp) (by simp)
  transmitted s h := by
    obtain ⟨_, e⟩ | e | e | e := commandTransmissionEnd_cases s <;> rw [e]
    · exact h.of_parts (by simp) (by simp)
    · exact h.of_parts (by simp) (by simp)
    · exact reset_ingestBounded rfl rfl
    · exact h

end Sys2Proof.Machine

/-! The slot map and the Assembly Queue within their capacities (R97, R98, R113, R121): the queue's entries
are different instants, each of a CLOSED slot, and the slot in assembly is ASSEMBLING. -/

namespace Sys2Proof.Machine

/-- What the slot map, the Assembly Queue and the slot in assembly keep to. -/
structure State.WindowBounded (s : State) : Prop where
  slots : s.window.slots.length ≤ Config.slotCapacity
  distinct : s.window.assemblyQueue.Nodup
  closed : ∀ n ∈ s.window.assemblyQueue, ∃ slot, s.slot? n = some slot ∧ slot.state = .closed
  assembling : ∀ n, s.assembler.current = some n →
    ∃ slot, s.slot? n = some slot ∧ slot.state = .assembling

section
variable {s t : State} {n : Nat}

/-- The Assembly Queue holds no more instants than the map has slots. -/
theorem State.WindowBounded.assembly (h : s.WindowBounded) :
    s.window.assemblyQueue.length ≤ Config.slotCapacity := by
  have sub : s.window.assemblyQueue ⊆ s.window.slots.map (·.1) := by
    intro n queued
    obtain ⟨slot, found, _⟩ := h.closed n queued
    exact List.mem_map_of_mem (mem_of_tableFind found)
  have := (h.distinct.subperm sub).length_le
  rw [List.length_map] at this
  exact this.trans h.slots

/-- What leaves the queue, the slot in assembly and the CLOSED and ASSEMBLING slots as they were. -/
theorem State.WindowBounded.of_states (h : s.WindowBounded)
    (slots : t.window.slots.length ≤ Config.slotCapacity)
    (queue : t.window.assemblyQueue = s.window.assemblyQueue)
    (current : t.assembler.current = s.assembler.current)
    (states : ∀ k slot, s.slot? k = some slot → slot.state = .closed ∨ slot.state = .assembling →
      ∃ slot', t.slot? k = some slot' ∧ slot'.state = slot.state) : t.WindowBounded := by
  refine ⟨slots, queue ▸ h.distinct, fun n queued => ?_, fun n inAssembly => ?_⟩
  · obtain ⟨slot, found, closed⟩ := h.closed n (queue ▸ queued)
    obtain ⟨slot', found', same⟩ := states n slot found (.inl closed)
    exact ⟨slot', found', same.trans closed⟩
  · obtain ⟨slot, found, assembling⟩ := h.assembling n (current ▸ inAssembly)
    obtain ⟨slot', found', same⟩ := states n slot found (.inr assembling)
    exact ⟨slot', found', same.trans assembling⟩

theorem State.WindowBounded.of_parts (h : s.WindowBounded)
    (slots : t.window.slots = s.window.slots)
    (queue : t.window.assemblyQueue = s.window.assemblyQueue)
    (current : t.assembler.current = s.assembler.current) : t.WindowBounded :=
  h.of_states (slots ▸ h.slots) queue current fun k slot found _ =>
    ⟨slot, by rw [State.slot?, slots]; exact found, rfl⟩

theorem State.WindowBounded.of_window (h : s.WindowBounded) (window : t.window = s.window)
    (current : t.assembler.current = s.assembler.current) : t.WindowBounded :=
  h.of_parts (by rw [window]) (by rw [window]) current

/-- Only slots that are neither CLOSED nor ASSEMBLING change their state. -/
theorem State.WindowBounded.of_insert {v w : Slot} (h : s.WindowBounded) (found : s.slot? n = some v)
    (slots : t.window.slots = tableInsert n w s.window.slots)
    (queue : t.window.assemblyQueue = s.window.assemblyQueue)
    (current : t.assembler.current = s.assembler.current)
    (state : w.state = v.state ∨ v.unclosed = true) : t.WindowBounded := by
  refine h.of_states ?_ queue current fun k slot found' stands => ?_
  · rw [slots]
    exact (tableInsert_length_of_some found).trans h.slots
  · rw [State.slot?, slots, tableFind_insert]
    split
    next e =>
      subst e
      obtain rfl : v = slot := Option.some.inj (found.symm.trans found')
      refine ⟨w, rfl, state.resolve_right fun unclosed => ?_⟩
      obtain stands | stands := stands <;> simp [Slot.unclosed, stands] at unclosed
    · exact ⟨slot, found', rfl⟩

theorem State.WindowBounded.of_modify {f : Slot → Slot} (h : s.WindowBounded)
    (slots : t.window.slots = tableModify n f s.window.slots)
    (queue : t.window.assemblyQueue = s.window.assemblyQueue)
    (current : t.assembler.current = s.assembler.current)
    (state : ∀ slot, (f slot).state = slot.state) : t.WindowBounded := by
  unfold tableModify at slots
  split at slots
  next v found => exact h.of_insert found slots queue current (.inl (state v))
  · exact h.of_parts slots queue current

/-- A slot that the map did not hold has nothing to do with the queue or the Assembler. -/
theorem State.WindowBounded.of_opened {slot : Slot} (h : s.WindowBounded) (absent : s.slot? n = none)
    (room : roomFor n s.window.slots = true)
    (slots : t.window.slots = tableInsert n slot s.window.slots)
    (queue : t.window.assemblyQueue = s.window.assemblyQueue)
    (current : t.assembler.current = s.assembler.current) : t.WindowBounded := by
  refine h.of_states ?_ queue current fun k v found _ => ⟨v, ?_, rfl⟩
  · rw [slots, tableInsert_length_of_none absent]
    simp only [roomFor, Bool.and_eq_true, decide_eq_true_eq] at room
    exact room.1
  · rw [State.slot?, slots, tableFind_insert_ne]
    · exact found
    · rintro rfl
      exact nomatch absent.symm.trans found

/-! ## Each operation on the slot map -/

theorem closeSlot_windowBounded (r : CloseReason) (h : s.WindowBounded) :
    (closeSlot n r s).WindowBounded := by
  unfold closeSlot
  split
  · exact h
  next slot found =>
    split
    next unclosed =>
      have apart {k : Nat} {v : Slot} (found' : s.slot? k = some v)
          (stands : v.state = .closed ∨ v.state = .assembling) : k ≠ n := by
        rintro rfl
        obtain rfl : slot = v := Option.some.inj (found.symm.trans found')
        obtain stands | stands := stands <;> simp [Slot.unclosed, stands] at unclosed
      refine ⟨(tableInsert_length_of_some found).trans h.slots, ?_, fun k queued => ?_,
        fun k current => ?_⟩
      · refine List.nodup_append.2 ⟨h.distinct, List.nodup_singleton n, fun k queued m e => ?_⟩
        obtain ⟨v, found', closed⟩ := h.closed k queued
        rw [List.mem_singleton.1 e]
        exact apart found' (.inl closed)
      · rw [State.slot?, tableFind_insert]
        obtain queued | queued := List.mem_append.1 queued
        · obtain ⟨v, found', closed⟩ := h.closed k queued
          rw [if_neg (apart found' (.inl closed))]
          exact ⟨v, found', closed⟩
        · rw [if_pos (List.mem_singleton.1 queued)]
          exact ⟨_, rfl, rfl⟩
      · obtain ⟨v, found', assembling⟩ := h.assembling k current
        rw [State.slot?, tableFind_insert_ne (apart found' (.inr assembling))]
        exact ⟨v, found', assembling⟩
    · exact h

theorem evaluateSlot_windowBounded (h : s.WindowBounded) : (evaluateSlot n s).1.WindowBounded := by
  unfold evaluateSlot
  split
  · exact h
  next slot found =>
    split
    next ready =>
      refine h.of_insert found rfl rfl rfl (.inr ?_)
      simp only [becomesReady, Bool.and_eq_true, decide_eq_true_eq] at ready
      simp [Slot.unclosed, ready.1]
    · exact h

theorem evaluateAll_slot? (s : State) (k : Nat) :
    (evaluateAll s).1.slot? k = (s.slot? k).map (evaluated s.grid.rate k s.sources) :=
  tableFind_map (fun n slot => evaluated s.grid.rate n s.sources slot) k s.window.slots

theorem evaluateAll_windowBounded (h : s.WindowBounded) : (evaluateAll s).1.WindowBounded := by
  refine h.of_states ((List.length_map _).trans_le h.slots) rfl rfl fun k slot found stands => ?_
  refine ⟨evaluated s.grid.rate k s.sources slot, ?_, ?_⟩
  · rw [evaluateAll_slot?, found]
    rfl
  · obtain e | ⟨opened, _⟩ := evaluated_cases s.grid.rate k s.sources slot
    · rw [e]
    · obtain stands | stands := stands <;> exact nomatch opened.symm.trans stands

/-- The take makes the head of the queue the slot in assembly (R121). -/
theorem takeIfIdle_windowBounded (h : s.WindowBounded) : (takeIfIdle s).1.WindowBounded := by
  unfold takeIfIdle
  split
  next n rest _ queue =>
    have distinct := h.distinct
    rw [queue, List.nodup_cons] at distinct
    obtain ⟨slot, found, _⟩ := h.closed n (by rw [queue]; exact List.mem_cons_self)
    have map (k : Nat) : (takeHead n rest s).1.slot? k =
        if k = n then some { slot with state := .assembling } else s.slot? k := by
      rw [State.slot?] at found
      rw [State.slot?, takeHead_window, tableFind_modify, found]
      rfl
    refine ⟨?_, ?_, fun k queued => ?_, fun k current => ?_⟩
    · rw [State.slot?] at found
      simp only [takeHead_window, tableModify, found]
      exact (tableInsert_length_of_some found).trans h.slots
    · rw [takeHead_window]
      exact distinct.2
    · rw [takeHead_window] at queued
      have other : k ≠ n := fun e => distinct.1 (e ▸ queued)
      rw [map, if_neg other]
      exact h.closed k (by rw [queue]; exact List.mem_cons_of_mem _ queued)
    · rw [takeHead_current] at current
      rw [map, if_pos (Option.some.inj current).symm]
      exact ⟨_, rfl, rfl⟩
  · exact h

/-- The slot whose assembly ends is in no queue (R123). -/
theorem releaseSlot_windowBounded (current : s.assembler.current = some n) (h : s.WindowBounded) :
    (releaseSlot n s).WindowBounded := by
  obtain ⟨slot, found, assembling⟩ := h.assembling n current
  refine ⟨?_, ?_, fun k queued => ?_, fun k taken => ?_⟩
  · rw [releaseSlot_window]
    exact (tableErase_length_le ..).trans h.slots
  · rw [releaseSlot_window]
    exact h.distinct
  · rw [releaseSlot_window] at queued
    obtain ⟨v, found', closed⟩ := h.closed k queued
    have other : k ≠ n := by
      rintro rfl
      obtain rfl : slot = v := Option.some.inj (found.symm.trans found')
      exact nomatch assembling.symm.trans closed
    refine ⟨v, ?_, closed⟩
    rw [State.slot?, releaseSlot_window, tableFind_erase_ne other]
    exact found'
  · rw [releaseSlot_current] at taken
    exact nomatch taken

theorem insertRecord_windowBounded {i : Nat} {r : SampleRecord}
    (room : s.slot? r.instant = none → roomFor r.instant s.window.slots = true)
    (h : s.WindowBounded) : (insertRecord i r s).WindowBounded := by
  cases found : s.slot? r.instant with
  | some slot =>
    rw [insertRecord_of_some found]
    exact h.of_insert found rfl rfl rfl (.inl rfl)
  | none =>
    rw [insertRecord_of_none found]
    exact h.of_opened found (room found) rfl rfl rfl

theorem emptyMap_windowBounded (slots : s.window.slots = []) (queue : s.window.assemblyQueue = [])
    (current : s.assembler.current = none) : s.WindowBounded := by
  refine ⟨by rw [slots]; exact Nat.zero_le _, queue ▸ List.nodup_nil, fun n queued => ?_,
    fun n taken => ?_⟩
  · rw [queue] at queued
    exact nomatch queued
  · rw [current] at taken
    exact nomatch taken

end

/-! ## Every command -/

theorem primitivesKeep_windowBounded : PrimitivesKeep State.WindowBounded where
  time _ _ h := h.of_window rfl rfl
  notice _ _ _ _ h := h.of_window (by simp) (by simp)
  flag _ _ h := h.of_window rfl rfl
  entry _ _ _ h := h.of_window rfl rfl
  emptyHold _ _ h := h.of_window rfl rfl
  count _ _ h := h.of_parts rfl rfl rfl
  close _ r _ h := closeSlot_windowBounded r h
  evaluateAll _ h := evaluateAll_windowBounded h
  evaluateSlot _ _ h := evaluateSlot_windowBounded h
  take _ h := takeIfIdle_windowBounded h
  overdue _ _ h := h.of_modify rfl rfl rfl (fun _ => rfl)
  opened _ _ _ absent room h := h.of_opened absent room rfl rfl rfl
  insert _ _ _ _ room _ h := insertRecord_windowBounded room h
  release _ _ current h := releaseSlot_windowBounded current h
  unknown _ _ h := h.of_window (by simp) (by simp)
  endDispatch _ h := h.of_window (by simp) (by simp)
  grid _ _ h := h.of_window rfl rfl
  config _ _ h := h.of_parts rfl rfl rfl
  emptyLog _ h := h.of_window rfl rfl
  applyIngest _ _ h := h.of_window (by simp) (by simp)
  clearLinks _ h := h.of_window rfl rfl
  declare _ _ _ h := h.of_window (by simp) (by simp [declare])
  view _ _ _ h := h.of_window rfl rfl
  setting _ _ _ h := h.of_window (by simp) (by simp)
  clearQueues _ h := h.of_window rfl rfl
  start _ h := h.of_parts rfl rfl rfl
  draining _ h := h.of_window rfl rfl
  windowReset _ _ := emptyMap_windowBounded (by simp [windowReset]) (by simp [windowReset])
    (by simp [windowReset]; rfl)
  zeroCounters _ h := h.of_parts (by simp [zeroCounters, State.countWindow])
    (by simp [zeroCounters, State.countWindow]) (by simp)
  faults _ _ h := h.of_window rfl rfl
  classes _ _ _ h := h.of_window rfl rfl

theorem operationsKeep_windowBounded : OperationsKeep State.WindowBounded where
  reset _ _ _ := emptyMap_windowBounded rfl rfl rfl
  pins _ _ h := h.of_window rfl rfl
  request _ h := executeHead_keeps h h (h.of_window rfl rfl)
    (fun r => primitivesKeep_windowBounded.executionOf r (h.of_window rfl rfl))
    (fun _ _ _ _ _ ht => ht.of_window (by simp) (by simp))
    (fun _ ht => ht.of_window (by simp) (by simp)) (fun _ _ => h.of_window (by simp) (by simp))
  ppsEdge _ h := primitivesKeep_windowBounded.ppsEdge h
  check _ h := primitivesKeep_windowBounded.reachCheck h
  lastGrain _ h := primitivesKeep_windowBounded.reachLastGrain h
  cadence _ h := primitivesKeep_windowBounded.reachCadence h
  deadline n _ h := primitivesKeep_windowBounded.reachDeadline n h
  ingestByte _ _ _ h := h.of_window (by simp) (by simp)
  placement _ h := primitivesKeep_windowBounded.placementStep h
  description _ h := primitivesKeep_windowBounded.descriptionHandling h
  handOver _ h := h.of_window (by simp) (by simp)
  assemblyEnd _ h := primitivesKeep_windowBounded.assemblyEnd
    (fun _ h => h.of_window (by simp) (by simp)) h
  transmissionEnd _ _ h := h.of_window (by simp) (by simp)
  look _ _ h := h.of_window (by simp) (by simp)
  inhibit _ h := h.of_window (by simp) (by simp)
  commandByte _ _ h := h.of_window (by simp) (by simp)
  transmitted s h := by
    obtain ⟨_, e⟩ | e | e | e := commandTransmissionEnd_cases s <;> rw [e]
    · exact h.of_window (by simp) (by simp)
    · exact h.of_window (by simp) (by simp)
    · exact emptyMap_windowBounded rfl rfl rfl
    · exact h

end Sys2Proof.Machine

/-! The sending side: what keeps a property of the release queues, the Command Link and the notice queue; and
that each of them stays within its capacity (R145, R155, R174), and with them every queue of the part. -/

namespace Sys2Proof.Machine

/-! ## Properties of the sending side -/

/-- A property of the release queues, the Command Link and the notice queue, which a raised notice keeps. -/
structure SendingKeep (Q : State → Prop) : Prop where
  parts : ∀ {s t}, Q s → t.release = s.release → t.command = s.command →
    t.reporting.notices = s.reporting.notices → Q t
  notice : ∀ {c x d s}, Q s → Q (raiseNotice c x d s)

namespace SendingKeep

variable {Q : State → Prop} {s : State}

theorem congestion (keep : SendingKeep Q) {f : FaultFlag} {x : Subject} (h : Q s) :
    Q (congestion f x s) := by
  unfold Machine.congestion
  split
  · exact h
  · exact keep.notice (keep.parts h rfl rfl rfl)

/-! ### The take (R121) -/

theorem boundarySwitch (keep : SendingKeep Q) {second : Nat} (h : Q s) :
    Q (boundarySwitch second s) := by
  refine List.foldlRecOn ViewId.all _ h fun t ht v _ => ?_
  unfold switchView
  split
  · split
    · exact keep.notice (keep.parts ht rfl rfl rfl)
    · exact ht
  · exact ht

theorem visitEntry (keep : SendingKeep Q) {n : Nat} {c : Table SampleRecord} {p : State × Bool}
    {i : Nat} (h : Q p.1) : Q (visitEntry n c p i).1 := by
  obtain ⟨s, m⟩ := p
  cases visited : (s.entry i).visited with
  | false => rw [visitEntry_of_unvisited visited]; exact h
  | true =>
    rw [visitEntry_of_visited visited]
    have kept : Q (s.visit n c i) := keep.parts h rfl rfl rfl
    split
    · exact keep.notice kept
    · exact kept

theorem dispositionPass (keep : SendingKeep Q) {n : Nat} {c : Table SampleRecord} (h : Q s) :
    Q (dispositionPass n c s).1 :=
  List.foldlRecOn (motive := fun p : State × Bool => Q p.1) s.sourceIndices _ h
    fun _ hp _ _ => keep.visitEntry hp

theorem considerViews (keep : SendingKeep Q) {n : Nat} {l : List ViewId} (h : Q s) :
    Q (considerViews n l s) :=
  keep.parts h (considerViews_release ..) (considerViews_command ..)
    (by rw [considerViews_reporting])

theorem takeIfIdle (keep : SendingKeep Q) (h : Q s) : Q (takeIfIdle s).1 := by
  unfold Machine.takeIfIdle
  split
  · refine keep.considerViews (keep.dispositionPass ?_)
    split
    · exact keep.boundarySwitch (keep.parts h rfl rfl rfl)
    · exact keep.parts h rfl rfl rfl
  · exact h

/-! ### Grants and reception (R36 to R41, R45) -/

theorem recordUnknown (keep : SendingKeep Q) {f : IngestFrame} (h : Q s) : Q (recordUnknown f s) := by
  unfold Machine.recordUnknown
  dsimp only
  split
  · exact keep.parts h rfl rfl rfl
  · exact keep.notice (keep.parts h rfl rfl rfl)

theorem grantTo (keep : SendingKeep Q) {l : LinkId} {f : IngestFrame} {rest : List IngestFrame}
    (h : Q s) : Q (grantTo l f rest s) := by
  have passed : Q (LinkId.all.foldl (passOver l) s) := keep.parts h (by simp) (by simp) (by simp)
  unfold Machine.grantTo
  dsimp only
  split
  · exact keep.parts passed rfl rfl rfl
  · exact keep.recordUnknown (keep.parts passed rfl rfl rfl)

theorem grants (keep : SendingKeep Q) (fuel : Nat) (h : Q s) : Q (grants fuel s) := by
  induction fuel generalizing s with
  | zero => exact h
  | succ fuel ih =>
    unfold Machine.grants
    split
    · exact h
    · split
      · exact h
      · split
        · exact h
        · exact ih (keep.grantTo h)

theorem completeFrame (keep : SendingKeep Q) {l : LinkId} {content crc : List Byte} (h : Q s) :
    Q (completeFrame l content crc s) := by
  unfold Machine.completeFrame
  split
  · exact keep.parts h rfl rfl rfl
  · split
    · exact keep.parts h rfl rfl rfl
    · dsimp only
      split
      · unfold offerFrame
        split
        · exact keep.grants _ (keep.parts h rfl rfl rfl)
        · exact keep.congestion (keep.parts h rfl rfl rfl)
      · exact keep.parts h rfl rfl rfl

theorem ingestByte (keep : SendingKeep Q) {l : LinkId} {b : Byte} (h : Q s) : Q (ingestByte l b s) := by
  unfold Machine.ingestByte
  dsimp only
  split
  · split
    · exact keep.parts h rfl rfl rfl
    · exact keep.parts h rfl rfl rfl
    · exact keep.parts h rfl rfl rfl
    · exact keep.completeFrame (keep.parts h rfl rfl rfl)
  · exact h

/-- Besides notices, only the requests that name them change the release queues and the counters. -/
theorem primitivesKeep (keep : SendingKeep Q) (setting : ∀ l n s, Q s → Q (applySetting l n s))
    (clearQueues : ∀ s, Q s → Q (clearQueueCounters s))
    (windowReset : ∀ s, Q s → Q (windowReset s)) (zeroCounters : ∀ s, Q s → Q (zeroCounters s)) :
    PrimitivesKeep Q where
  time _ _ h := keep.parts h rfl rfl rfl
  notice _ _ _ _ h := keep.notice h
  flag _ _ h := keep.parts h rfl rfl rfl
  entry _ _ _ h := keep.parts h rfl rfl rfl
  emptyHold _ _ h := keep.parts h rfl rfl rfl
  count _ _ h := keep.parts h rfl rfl rfl
  close _ _ _ h := keep.parts h (by simp) (by simp) (by simp)
  evaluateAll _ h := keep.parts h rfl rfl rfl
  evaluateSlot _ _ h := keep.parts h (by simp) (by simp) (by simp)
  take _ h := keep.takeIfIdle h
  overdue _ _ h := keep.parts h rfl rfl rfl
  opened _ _ _ _ _ h := keep.parts h rfl rfl rfl
  insert _ _ _ _ _ _ h := keep.parts h (by simp) (by simp) (by simp)
  release _ _ _ h := keep.parts h (by simp) (by simp) (by simp)
  unknown _ _ h := keep.recordUnknown h
  endDispatch _ h := keep.grants _ (keep.parts h rfl rfl rfl)
  grid _ _ h := keep.parts h rfl rfl rfl
  config _ _ h := keep.parts h rfl rfl rfl
  emptyLog _ h := keep.parts h rfl rfl rfl
  applyIngest _ _ h := keep.parts h (by simp) (by simp) (by simp)
  clearLinks _ h := keep.parts h rfl rfl rfl
  declare _ _ _ h := keep.parts h (by simp) (by simp) (by simp)
  view _ _ _ h := keep.parts h rfl rfl rfl
  setting := setting
  clearQueues := clearQueues
  start _ h := keep.parts h rfl rfl rfl
  draining _ h := keep.parts h rfl rfl rfl
  windowReset := windowReset
  zeroCounters := zeroCounters
  faults _ _ h := keep.parts h rfl rfl rfl
  classes _ _ _ h := keep.parts h rfl rfl rfl

end SendingKeep

/-- The release queues, the request queue and the notice queue are within their capacities, and the reply
list holds at most `k`. -/
structure State.SendingBounded (k : Nat) (s : State) : Prop where
  queue (d : Destination) : (s.release.queue d).bounded
  requests : s.command.requests.length ≤ Config.requestCapacity
  replies : s.command.replies.length ≤ k
  notices : s.reporting.notices.length ≤ Config.noticeCapacity

section
variable {s t : State} {k : Nat}

/-- What leaves no queue longer. -/
theorem State.SendingBounded.of_shorter (h : s.SendingBounded k)
    (queue : ∀ d, (t.release.queue d).sets.length ≤ (s.release.queue d).sets.length)
    (requests : t.command.requests.length ≤ s.command.requests.length)
    (replies : t.command.replies.length ≤ s.command.replies.length)
    (notices : t.reporting.notices.length ≤ s.reporting.notices.length) : t.SendingBounded k :=
  ⟨fun d => (queue d).trans (h.queue d), requests.trans h.requests, replies.trans h.replies,
    notices.trans h.notices⟩

theorem State.SendingBounded.of_parts (h : s.SendingBounded k) (release : t.release = s.release)
    (command : t.command = s.command) (reporting : t.reporting.notices = s.reporting.notices) :
    t.SendingBounded k :=
  h.of_shorter (fun d => by rw [release]) (by rw [command]) (by rw [command]) (by rw [reporting])

theorem State.SendingBounded.modifyQueue {d : Destination} {f : ReleaseQueue → ReleaseQueue}
    (h : s.SendingBounded k) (bounded : (f (s.release.queue d)).bounded) :
    (s.modifyQueue d f).SendingBounded k := by
  refine ⟨fun e => ?_, h.requests, h.replies, h.notices⟩
  obtain rfl | other := eq_or_ne e d
  · rw [State.queue_modifyQueue_self]; exact bounded
  · rw [State.queue_modifyQueue_ne s other]; exact h.queue e

theorem State.SendingBounded.withProcessor {p : Processor} (h : s.SendingBounded k) :
    (s.withProcessor p).SendingBounded k :=
  h.of_shorter (fun _ => le_rfl) le_rfl le_rfl le_rfl

/-! ## The line's choice -/

theorem makeStopReply_requests_le (s : State) :
    (makeStopReply s).command.requests.length ≤ s.command.requests.length ∧
    (makeStopReply s).command.replies.length ≤ s.command.replies.length + 1 := by
  unfold makeStopReply
  split
  next none => exact ⟨le_rfl, Nat.le_succ _⟩
  next r rest some => simp [some]

/-- A reply that leaves the list can bring one to it (R161), and the requests do not grow. -/
theorem replyPlaceFreed_le (s : State) :
    (replyPlaceFreed s).command.requests.length ≤ s.command.requests.length ∧
    (replyPlaceFreed s).command.replies.length ≤ s.command.replies.length + 1 := by
  unfold replyPlaceFreed
  split
  · exact ⟨le_rfl, Nat.le_succ _⟩
  · split
    · exact ⟨le_rfl, Nat.le_succ _⟩
    · exact makeStopReply_requests_le s
  all_goals exact ⟨le_rfl, Nat.le_succ _⟩

/-- The line's choice leaves no queue longer (R164). -/
theorem State.SendingBounded.transmitChoice (h : s.SendingBounded k) :
    (transmitChoice s).SendingBounded k := by
  unfold Machine.transmitChoice
  split
  · exact h
  · split
    next r rest replies =>
      have freed := replyPlaceFreed_le
        { s with command := { s.command with line := some (.reply r), replies := rest } }
      refine h.of_shorter (fun d => by rw [replyPlaceFreed_release]) freed.1 ?_
        (by rw [replyPlaceFreed_reporting])
      rw [replies]
      exact freed.2
    · split
      next n rest notices =>
        exact h.of_shorter (fun _ => le_rfl) le_rfl le_rfl (by rw [notices]; exact Nat.le_succ _)
      · split
        · exact h
        · exact h.modifyQueue (h.queue .cl)

theorem State.SendingBounded.appendReply {r : Reply} (h : s.SendingBounded k) :
    (appendReply r s).SendingBounded (k + 1) := by
  refine State.SendingBounded.transmitChoice ⟨h.queue, h.requests, ?_, h.notices⟩
  rw [List.length_append]
  exact Nat.succ_le_succ h.replies

theorem State.SendingBounded.mono {j : Nat} (h : s.SendingBounded k) (le : k ≤ j) :
    s.SendingBounded j :=
  ⟨h.queue, h.requests, h.replies.trans le, h.notices⟩

/-! ## Notices (R174, R175) -/

theorem insertNotice_length (n : Notice) (q : List Notice) :
    (insertNotice n q).length = q.length + 1 := by
  induction q with
  | nil => rfl
  | cons m rest ih =>
    unfold insertNotice
    split
    · rw [List.length_cons, ih, List.length_cons]
    · rfl

/-- The notice of the lowest priority makes room (R175). -/
theorem removeEarliest_length {q : List Notice} (full : q ≠ []) :
    (removeEarliest (lowestPriority q) q).length + 1 = q.length := by
  obtain ⟨e, mem, lowest⟩ := (lowestPriority_least q full).2
  obtain ⟨before, lost, after, split, _, _, removed⟩ :=
    removeEarliest_first (lowestPriority q) q ⟨e, mem, lowest⟩
  have := congrArg List.length split
  rw [removed]
  simp only [List.length_append, List.length_cons] at this ⊢
  omega

theorem enterNotice_notices {n : Notice} (h : s.reporting.notices.length ≤ Config.noticeCapacity) :
    (enterNotice n s).reporting.notices.length ≤ Config.noticeCapacity := by
  unfold enterNotice
  dsimp only
  split
  next room =>
    rw [insertNotice_length]
    exact room
  next full =>
    split
    · have nonempty : s.reporting.notices ≠ [] := by
        rintro empty
        rw [empty] at full
        exact full (by decide)
      show (insertNotice n _).length ≤ _
      rw [insertNotice_length, removeEarliest_length nonempty]
      exact h
    · exact h

theorem State.SendingBounded.raiseNotice {c : NoticeClass} {x : Subject} {d : Nat}
    (h : s.SendingBounded k) : (raiseNotice c x d s).SendingBounded k := by
  unfold Machine.raiseNotice
  dsimp only
  split
  · exact h
  · have entered (n : Notice) : (enterNotice n s).SendingBounded k :=
      ⟨by rw [enterNotice_release]; exact h.queue, by rw [enterNotice_command]; exact h.requests,
        by rw [enterNotice_command]; exact h.replies, enterNotice_notices h.notices⟩
    unfold afterNotice
    split
    · exact entered _
    · exact (entered _).transmitChoice

theorem sendingKeep_sendingBounded (k : Nat) : SendingKeep (State.SendingBounded k) where
  parts h release command notices := h.of_parts release command notices
  notice h := h.raiseNotice

/-! ## The release queues (R145 to R152) -/

theorem ReleaseQueue.flush_sets (q : ReleaseQueue) : q.flush.sets = [] := rfl

theorem ReleaseQueue.inhibit_sets (q : ReleaseQueue) : q.inhibit.sets = [] := rfl

theorem ReleaseQueue.append_sets (q : ReleaseQueue) (o : OutSet) :
    (q.append o).sets = q.sets ++ [o] := rfl

/-- A queue at its capacity has room once its oldest waiting SET has gone (R146). -/
theorem ReleaseQueue.dropOldest_length (q : ReleaseQueue) (full : 2 ≤ q.sets.length) :
    q.dropOldest.sets.length + 1 = q.sets.length := by
  unfold ReleaseQueue.dropOldest
  dsimp only
  split
  · simp only [List.length_append, List.length_take, List.length_drop]
    omega
  · rw [List.length_drop]
    omega

theorem emptied_bounded {q : ReleaseQueue} (h : q.sets = []) : q.bounded := by
  rw [ReleaseQueue.bounded, h]
  exact Nat.zero_le _

theorem lookAtBusy_sendingBounded {l : RelId} (h : s.SendingBounded k) :
    (lookAtBusy l s).SendingBounded k := by
  unfold lookAtBusy
  dsimp only
  split
  · exact h.modifyQueue (h.queue l.destination)
  · exact h

theorem afterAppend_sendingBounded {d : Destination} {b : Bool} (h : s.SendingBounded k) :
    (afterAppend d b s).SendingBounded k := by
  unfold afterAppend
  split
  · split
    · exact lookAtBusy_sendingBounded h
    · exact h
  · split
    · exact lookAtBusy_sendingBounded h
    · exact h
  · exact h.transmitChoice

theorem handOver_sendingBounded {d : Destination} {o : OutSet} (h : s.SendingBounded k) :
    (handOver d o s).SendingBounded k := by
  unfold handOver
  dsimp only
  split
  · exact h.modifyQueue (h.queue d)
  · split
    · exact h.modifyQueue (emptied_bounded (ReleaseQueue.inhibit_sets _))
    · split
      next room =>
        refine afterAppend_sendingBounded (h.modifyQueue ?_)
        rw [ReleaseQueue.bounded, ReleaseQueue.append_sets, List.length_append]
        exact room
      next full =>
        refine afterAppend_sendingBounded ((sendingKeep_sendingBounded k).congestion (h.modifyQueue ?_))
        have dropped := ReleaseQueue.dropOldest_length (s.release.queue d)
          (by simp only [Config.releaseCapacity] at full; omega)
        rw [ReleaseQueue.bounded, ReleaseQueue.append_sets, List.length_append, List.length_singleton,
          dropped]
        exact h.queue d

theorem applySetting_sendingBounded {l : RelId} {n : Nat} (h : s.SendingBounded k) :
    (applySetting l n s).SendingBounded k := by
  have switched (b : Bool) : (s.setEnabled l b).SendingBounded k :=
    h.of_shorter (fun d => by cases l <;> cases d <;> exact le_rfl) (by simp) (by simp) (by simp)
  unfold applySetting
  split
  · exact h
  · exact switched true
  · unfold disableLink
    split
    · exact (switched false).modifyQueue (emptied_bounded (ReleaseQueue.flush_sets _))
    · exact h

theorem emptyQueues_sendingBounded (h : s.SendingBounded k)
    (queues : ∀ d, (t.release.queue d).sets = []) (command : t.command = s.command)
    (reporting : t.reporting = s.reporting) : t.SendingBounded k :=
  h.of_shorter (fun d => by rw [queues]; exact Nat.zero_le _) (by rw [command]) (by rw [command])
    (by rw [reporting])

theorem clearQueueCounters_sets (s : State) (d : Destination) :
    ((clearQueueCounters s).release.queue d).sets = (s.release.queue d).sets := by
  cases d <;> rfl

/-! ## The Command Link -/

theorem drainEnd_sendingBounded (h : s.SendingBounded 8) : (drainEnd s).SendingBounded 8 := by
  have idle : State.SendingBounded 8 { s with reporting := { s.reporting with opState := .idle } } :=
    h.of_parts rfl rfl rfl
  unfold drainEnd
  dsimp only
  split
  · split
    next room =>
      have made := makeStopReply_requests_le
        { s with reporting := { s.reporting with opState := .idle } }
      exact State.SendingBounded.transmitChoice ⟨by rw [makeStopReply_release]; exact h.queue,
        made.1.trans h.requests, made.2.trans room.2, by rw [makeStopReply_reporting]; exact h.notices⟩
    · exact idle
  · exact h

theorem finishRequest_sendingBounded {r : Request} {st : Status} {b : List Byte}
    (h : s.SendingBounded k) : (finishRequest r st b s).SendingBounded (k + 1) := by
  refine State.SendingBounded.appendReply (h.of_shorter (fun _ => le_rfl) ?_ le_rfl le_rfl)
  rw [List.length_drop]
  exact Nat.sub_le ..

theorem takeRequest_sendingBounded {r : Request} (h : s.SendingBounded 8) :
    (takeRequest r s).SendingBounded 8 := by
  unfold takeRequest
  split
  next room =>
    refine ⟨h.queue, ?_, h.replies, h.notices⟩
    rw [List.length_append]
    exact room
  · split
    next room =>
      exact State.SendingBounded.appendReply (k := 7)
        ⟨h.queue, h.requests, Nat.le_of_lt_succ room, h.notices⟩
    · exact h.of_shorter (fun _ => le_rfl) le_rfl le_rfl le_rfl

theorem commandByte_sendingBounded {b : Byte} (h : s.SendingBounded 8) :
    (commandByte b s).SendingBounded 8 := by
  unfold commandByte
  dsimp only
  split
  · exact h.of_shorter (fun _ => le_rfl) le_rfl le_rfl le_rfl
  · exact h.of_shorter (fun _ => le_rfl) le_rfl le_rfl le_rfl
  · exact h.of_shorter (fun _ => le_rfl) le_rfl le_rfl le_rfl
  · unfold completeRequest
    split
    · exact h.of_shorter (fun _ => le_rfl) le_rfl le_rfl le_rfl
    · split
      · exact h.of_shorter (fun _ => le_rfl) le_rfl le_rfl le_rfl
      · exact takeRequest_sendingBounded (h.of_shorter (fun _ => le_rfl) le_rfl le_rfl le_rfl)

theorem reset_sendingBounded {s : State} (release : s.release = .reset) (command : s.command = .reset)
    (reporting : s.reporting = .reset) : s.SendingBounded 8 := by
  refine ⟨fun d => ?_, by rw [command]; decide, by rw [command]; decide, by rw [reporting]; decide⟩
  rw [release]
  cases d <;> exact Nat.zero_le _

end

/-! ## Every command -/

theorem primitivesKeep_sendingBounded (k : Nat) : PrimitivesKeep (State.SendingBounded k) :=
  (sendingKeep_sendingBounded k).primitivesKeep (fun _ _ _ => applySetting_sendingBounded)
    (fun _ h => h.of_shorter (fun d => by rw [clearQueueCounters_sets]) le_rfl le_rfl le_rfl)
    (fun _ h => emptyQueues_sendingBounded h
      (fun d => by cases d <;> exact ReleaseQueue.flush_sets _) (by simp) (by simp))
    (fun s h =>
      have cleared : (s.sourceIndices.foldl clearEntry s).SendingBounded k :=
        h.of_parts (clearEntries_release ..) (clearEntries_command ..)
          (by rw [clearEntries_reporting])
      cleared.of_shorter (fun d => by cases d <;> exact le_rfl) le_rfl le_rfl le_rfl)

theorem executeHead_sendingBounded {isCode : Nat → Bool} {s : State} (h : s.SendingBounded 8) :
    (executeHead isCode executionOf s).SendingBounded 8 := by
  have own : s.SendingBounded s.command.replies.length := ⟨h.queue, h.requests, le_rfl, h.notices⟩
  have within {t : State} (ht : t.SendingBounded s.command.replies.length) : t.SendingBounded 8 :=
    ht.mono h.replies
  exact executeHead_keeps h own h.withProcessor
    (fun r => (primitivesKeep_sendingBounded _).executionOf r own.withProcessor)
    (fun _ _ _ _ room ht => (finishRequest_sendingBounded ht).mono room)
    (fun _ ht => (drainEnd_sendingBounded (within ht).withProcessor).transmitChoice)
    (fun _ room => (State.SendingBounded.appendReply own.withProcessor).mono room)

theorem operationsKeep_sendingBounded : OperationsKeep (State.SendingBounded 8) where
  reset _ _ _ := reset_sendingBounded rfl rfl rfl
  pins _ _ h := h.of_parts rfl rfl rfl
  request _ h := executeHead_sendingBounded h
  ppsEdge _ h := (primitivesKeep_sendingBounded 8).ppsEdge h
  check _ h := (primitivesKeep_sendingBounded 8).reachCheck h
  lastGrain _ h := (primitivesKeep_sendingBounded 8).reachLastGrain h
  cadence _ h := (primitivesKeep_sendingBounded 8).reachCadence h
  deadline n _ h := (primitivesKeep_sendingBounded 8).reachDeadline n h
  ingestByte _ _ _ h := (sendingKeep_sendingBounded 8).ingestByte h
  placement _ h := (primitivesKeep_sendingBounded 8).placementStep h
  description _ h := (primitivesKeep_sendingBounded 8).descriptionHandling h
  handOver s h := by
    unfold handOverSet
    split
    · split
      · exact (sendingKeep_sendingBounded 8).considerViews h
      · exact (sendingKeep_sendingBounded 8).considerViews
          ((handOver_sendingBounded h).of_parts rfl rfl rfl)
    · exact h
  assemblyEnd _ h := (primitivesKeep_sendingBounded 8).assemblyEnd
    (fun _ h => drainEnd_sendingBounded h) h
  transmissionEnd l s h := by
    unfold transmissionEnd
    split
    · refine lookAtBusy_sendingBounded (h.modifyQueue ?_)
      exact (List.drop_sublist 1 _).length_le.trans (h.queue l.destination)
    · exact h
  look _ _ h := lookAtBusy_sendingBounded h
  inhibit s h := State.SendingBounded.transmitChoice (emptyQueues_sendingBounded h
    (fun d => by cases d <;> exact ReleaseQueue.inhibit_sets _) rfl rfl)
  commandByte _ _ h := commandByte_sendingBounded h
  transmitted s h := by
    obtain ⟨_, e⟩ | e | e | e := commandTransmissionEnd_cases s <;> rw [e]
    · exact State.SendingBounded.transmitChoice
        (h.of_shorter (fun _ => le_rfl) le_rfl le_rfl le_rfl)
    · refine State.SendingBounded.transmitChoice (h.modifyQueue ?_)
      exact (List.drop_sublist 1 _).length_le.trans (h.queue .cl)
    · exact reset_sendingBounded rfl rfl rfl
    · exact h

/-! ## All queues together -/

theorem State.bounded_iff (s : State) :
    s.Bounded ↔ s.IngestBounded ∧ s.WindowBounded ∧ s.SendingBounded 8 := by
  constructor
  · intro h
    refine ⟨⟨fun l => ?_, h.log⟩, ⟨h.slots, h.distinct, h.closed, h.assembling⟩,
      ⟨fun d => ?_, h.requests, h.replies, h.notices⟩⟩
    · cases l
      exacts [h.il0, h.il1, h.il2, h.il3]
    · cases d
      exacts [h.queue0, h.queue1, h.commandQueue]
  · rintro ⟨ingest, window, sending⟩
    exact
      { il0 := ingest.link .il0, il1 := ingest.link .il1, il2 := ingest.link .il2
        il3 := ingest.link .il3, log := ingest.log, slots := window.slots
        assembly := window.assembly, distinct := window.distinct, closed := window.closed
        assembling := window.assembling, queue0 := sending.queue .rl0
        queue1 := sending.queue .rl1, commandQueue := sending.queue .cl
        requests := sending.requests, replies := sending.replies, notices := sending.notices }

/-- Settles O7: the ingest side, the window and the sending side each stay within their capacities at every
step, and a state is bounded where the three are. -/
theorem stepsKeepQueuesBounded : Obligations.StepsKeepQueuesBounded := by
  intro s t bounded stepped
  obtain ⟨ingest, window, sending⟩ := s.bounded_iff.1 bounded
  refine t.bounded_iff.2 ⟨?_, ?_, ?_⟩
  · exact operationsKeep_ingestBounded.step (fun _ _ h => h.of_parts rfl le_rfl)
      (fun _ => primitivesKeep_ingestBounded.tick) s t ingest stepped
  · exact operationsKeep_windowBounded.step (fun _ _ h => h.of_window rfl rfl)
      (fun _ => primitivesKeep_windowBounded.tick) s t window stepped
  · exact operationsKeep_sendingBounded.step (fun _ _ h => h.of_parts rfl rfl rfl)
      (fun _ => (primitivesKeep_sendingBounded 8).tick) s t sending stepped

end Sys2Proof.Machine

/-! The block as a whole: the front command, the device reset and its hold, the state after it, and what
every command keeps of the queue and of the processor. -/

namespace Sys2Proof.Machine

/-- Settles O1: the second arm of `step`. -/
theorem stepRunsTheFrontCommand : Obligations.StepRunsTheFrontCommand := by
  intro c rest s front
  unfold step
  rw [front]

/-- Settles O4: the three commands answer the device reset with the pins of the command. -/
theorem deviceResetReturnsEveryBlock : Obligations.DeviceResetReturnsEveryBlock := by
  intro c s mem lasts
  have views (v : ViewId) : State.reset.view v = .reset := by cases v <;> rfl
  simp only [List.mem_cons, List.not_mem_nil, or_false] at mem
  obtain rfl | rfl | rfl := mem
  · refine ⟨_, rfl, rfl, rfl, rfl, rfl, rfl, rfl, rfl, views, rfl, rfl, rfl, rfl, ?_, rfl, rfl, rfl, rfl, rfl⟩
    simp [State.inReset]
  · refine ⟨_, rfl, rfl, rfl, rfl, rfl, rfl, rfl, rfl, views, rfl, rfl, rfl, rfl, ?_, rfl, rfl, rfl, rfl, rfl⟩
    simp [State.inReset]
  · have ended : exec .resetEnd s = .next
        { deviceReset s with pins := { s.pins with resetn := false, powerUnstable := false } } := by
      show execResetEnd s = _
      rw [execResetEnd, if_pos (lasts rfl)]
      rfl
    refine ⟨_, ended, rfl, rfl, rfl, rfl, rfl, rfl, rfl, views, rfl, rfl, rfl, rfl, ?_, rfl, rfl, rfl, rfl, rfl⟩
    simp [State.inReset]

/-- Settles O6: each invariant holds of the reset values. -/
theorem resetStateIsSafe : Obligations.ResetStateIsSafe where
  bounded := State.reset.bounded_iff.2
    ⟨reset_ingestBounded rfl rfl, emptyMap_windowBounded rfl rfl rfl, reset_sendingBounded rfl rfl rfl⟩
  conserved := emptyMap_conserved rfl rfl
  clocked := (deviceReset_clocked State.reset)

/-! ## While a reset lasts (R172) -/

section
variable {s : State}

theorem requestDue_inReset (lasts : s.inReset = true) : s.requestDue = false := by
  simp [State.requestDue, lasts]

theorem atOnce_inReset (lasts : s.inReset = true) : s.atOnce = s :=
  atOnce_of_none (requestDue_inReset lasts)

theorem outOfReset_inReset (lasts : s.inReset = true) (f : State → State) : outOfReset f s = s :=
  if_pos lasts

theorem event_inReset (lasts : s.inReset = true) (f : State → State) : event f s = .next s := by
  rw [event, atOnce_inReset lasts, outOfReset_inReset lasts, answer]

theorem deliverReached_inReset (lasts : s.inReset = true) : deliverReached s = s := by
  unfold deliverReached
  rw [atOnce_inReset lasts]
  refine List.foldlRecOn (motive := (· = s)) _ _ rfl fun t ht f _ => ?_
  rw [ht, atOnce_inReset lasts, outOfReset_inReset lasts]

theorem setBusy_inReset (l : RelId) (b : Bool) : (s.setBusy l b).inReset = s.inReset := by
  cases l <;> rfl

theorem exec_requestRow_inReset {c : Instr} (row : c ∈ Instr.unknownRequest :: requestRows)
    (lasts : s.inReset = true) : exec c s = .next s := by
  have held (code : Nat) (e : Request → State → Execution) :
      answer (runRequest code e s) = .next s := by
    rw [runRequest, outOfReset_inReset lasts, answer]
  simp only [requestRows, List.mem_cons, List.not_mem_nil, or_false] at row
  rcases row with rfl | row
  · show execUnknownRequest s = _
    rw [execUnknownRequest, outOfReset_inReset lasts, answer]
  · rcases row with rfl | rfl | rfl | rfl | rfl | rfl | rfl | rfl | rfl | rfl | rfl | rfl | rfl | rfl |
      rfl | rfl | rfl | rfl | rfl | rfl | rfl | rfl | rfl | rfl | rfl | rfl | rfl | rfl <;>
    exact held _ _

end

/-- Settles O5: no request is due and no event acts while the reset lasts. -/
theorem resetHoldsThePart : Obligations.ResetHoldsThePart := by
  intro c s lasts
  refine ⟨fun other => ?_, fun l => ⟨?_, ?_⟩, ?_, ?_⟩
  · cases c with
    | powerOn | resetnAssert | resetEnd | inhibitAssert | inhibitDeassert => simp at other
    | busyAssert l | busyDeassert l => cases l <;> simp at other
    | ppsEdge =>
      show event ppsEdge (deliverReached s) = _
      rw [deliverReached_inReset lasts, event_inReset lasts]
    | missingPpsCheck | localTimeStop | cadenceEvent | deadlineExpiry | ingestByte | ingestFrame
    | placementStep | descriptionHandling | setHandover | assemblyEnd | transmissionEnd | clByte
    | requestFrame | clTransmissionEnd => exact event_inReset lasts _
    | _ => exact exec_requestRow_inReset (by simp [requestRows]) lasts
  · show answer (s.atOnce.setBusy l true) = _
    rw [atOnce_inReset lasts, answer]
  · show answer (busyDeassert l s.atOnce) = _
    rw [atOnce_inReset lasts, busyDeassert, outOfReset_inReset ((setBusy_inReset l false).trans lasts),
      answer]
  · show answer (inhibitAssert s.atOnce) = _
    rw [atOnce_inReset lasts, inhibitAssert, outOfReset_inReset (s := s.setInhibit true) lasts]
    rfl
  · show answer (s.atOnce.setInhibit false) = _
    rw [atOnce_inReset lasts]
    rfl

/-! ## The queue of waiting commands (log 7) -/

theorem primitivesKeep_pending (p : List Instr) : PrimitivesKeep (·.pending = p) where
  time _ _ h := h
  notice _ _ _ _ h := by rw [raiseNotice_pending, h]
  flag _ _ h := h
  entry _ _ _ h := h
  emptyHold _ _ h := h
  count _ _ h := h
  close _ _ _ h := by rw [closeSlot_pending, h]
  evaluateAll _ h := h
  evaluateSlot _ _ h := by rw [evaluateSlot_pending, h]
  take _ h := by rw [takeIfIdle_pending, h]
  overdue _ _ h := h
  opened _ _ _ _ _ h := h
  insert _ _ _ _ _ _ h := by rw [insertRecord_pending, h]
  release _ _ _ h := by rw [releaseSlot_pending, h]
  unknown _ _ h := by rw [recordUnknown_pending, h]
  endDispatch _ h := by rw [endDispatch_pending, h]
  grid _ _ h := h
  config _ _ h := h
  emptyLog _ h := h
  applyIngest _ _ h := by rw [applyIngest_pending, h]
  clearLinks _ h := h
  declare _ _ _ h := by rw [declare_pending, h]
  view _ _ _ h := h
  setting _ _ _ h := by rw [applySetting_pending, h]
  clearQueues _ h := h
  start _ h := h
  draining _ h := h
  windowReset _ h := by rw [windowReset_pending, h]
  zeroCounters _ h := by rw [zeroCounters_pending, h]
  faults _ _ h := h
  classes _ _ _ h := h

theorem operationsKeep_pending (p : List Instr) : OperationsKeep (·.pending = p) where
  reset _ _ h := h
  pins _ _ h := h
  request _ h := executeHead_keeps (P := (·.pending = p)) (Q := (·.pending = p)) h h h (fun r => (primitivesKeep_pending p).executionOf r h)
    (fun _ _ _ _ _ ht => by rw [finishRequest_pending, ht])
    (fun _ ht => by rw [transmitChoice_pending, drainEnd_pending, withProcessor_pending, ht])
    (fun _ _ => by rw [appendReply_pending, withProcessor_pending, h])
  ppsEdge _ h := (primitivesKeep_pending p).ppsEdge h
  check _ h := (primitivesKeep_pending p).reachCheck h
  lastGrain _ h := (primitivesKeep_pending p).reachLastGrain h
  cadence _ h := (primitivesKeep_pending p).reachCadence h
  deadline n _ h := (primitivesKeep_pending p).reachDeadline n h
  ingestByte _ _ _ h := by rw [ingestByte_pending, h]
  placement _ h := (primitivesKeep_pending p).placementStep h
  description _ h := (primitivesKeep_pending p).descriptionHandling h
  handOver _ h := by rw [handOverSet_pending, h]
  assemblyEnd _ h := (primitivesKeep_pending p).assemblyEnd (fun _ h => by rw [drainEnd_pending, h]) h
  transmissionEnd _ _ h := by rw [transmissionEnd_pending, h]
  look _ _ h := by rw [lookAtBusy_pending, h]
  inhibit _ h := by rw [inhibitQueues_pending, h]
  commandByte _ _ h := by rw [commandByte_pending, h]
  transmitted s h := by
    obtain ⟨_, e⟩ | e | e | e := commandTransmissionEnd_cases s <;> rw [e]
    · rw [transmitChoice_pending]; exact h
    · rw [transmitChoice_pending]; exact h
    · exact h
    · exact h

/-! ## No execution left half done (R159, log 9) -/

/-- The processor is not in the midst of an execution. -/
def State.NotExecuting (s : State) : Prop := s.command.processor ≠ .executing

section
variable {s t : State}

theorem State.NotExecuting.of_command (h : s.NotExecuting) (command : t.command = s.command) :
    t.NotExecuting := by
  unfold State.NotExecuting
  rw [command]
  exact h

theorem makeStopReply_notExecuting (s : State) : (makeStopReply s).NotExecuting := by
  unfold State.NotExecuting
  rw [(makeStopReply_command s).1]
  decide

/-- The choice leaves the processor, or a place freed ends its waiting (R159, R161). -/
theorem State.NotExecuting.transmitChoice (h : s.NotExecuting) : (transmitChoice s).NotExecuting := by
  unfold Machine.transmitChoice
  split
  · exact h
  · split
    · unfold replyPlaceFreed
      split
      · exact nofun
      · split
        · exact h
        · exact makeStopReply_notExecuting _
      all_goals exact h
    · split
      · exact h
      · split
        · exact h
        · exact h

theorem State.NotExecuting.drainEnd (h : s.NotExecuting) : (drainEnd s).NotExecuting := by
  unfold Machine.drainEnd
  dsimp only
  split
  · split
    · exact (makeStopReply_notExecuting _).transmitChoice
    · exact h
  · exact h

theorem sendingKeep_notExecuting : SendingKeep State.NotExecuting where
  parts h _ command _ := h.of_command command
  notice {c x d s} h := by
    unfold raiseNotice
    dsimp only
    split
    · exact h
    · have entered (n : Notice) : (enterNotice n s).NotExecuting := h.of_command (by simp)
      unfold afterNotice
      split
      · exact entered _
      · exact (entered _).transmitChoice

theorem primitivesKeep_notExecuting : PrimitivesKeep State.NotExecuting :=
  sendingKeep_notExecuting.primitivesKeep (fun _ _ _ h => h.of_command (by simp))
    (fun _ h => h.of_command (by simp)) (fun _ h => h.of_command (by simp))
    (fun s h =>
      have cleared : (s.sourceIndices.foldl clearEntry s).NotExecuting :=
        h.of_command (clearEntries_command ..)
      cleared)

theorem lookAtBusy_notExecuting {l : RelId} (h : s.NotExecuting) : (lookAtBusy l s).NotExecuting :=
  h.of_command (by simp)

theorem afterAppend_notExecuting {d : Destination} {b : Bool} (h : s.NotExecuting) :
    (afterAppend d b s).NotExecuting := by
  unfold afterAppend
  split
  · split
    · exact lookAtBusy_notExecuting h
    · exact h
  · split
    · exact lookAtBusy_notExecuting h
    · exact h
  · exact h.transmitChoice

theorem handOver_notExecuting {d : Destination} {o : OutSet} (h : s.NotExecuting) :
    (handOver d o s).NotExecuting := by
  unfold handOver
  dsimp only
  split
  · exact h
  · split
    · exact h
    · split
      · exact afterAppend_notExecuting h
      · exact afterAppend_notExecuting (sendingKeep_notExecuting.congestion h)

theorem finishRequest_notExecuting (r : Request) (st : Status) (b : List Byte) (s : State) :
    (finishRequest r st b s).NotExecuting :=
  State.NotExecuting.transmitChoice nofun

theorem completeRequest_notExecuting {content crc : List Byte} (h : s.NotExecuting) :
    (completeRequest content crc s).NotExecuting := by
  unfold completeRequest
  split
  · exact h
  · split
    · exact h
    · unfold takeRequest
      split
      · exact h
      · split
        · exact State.NotExecuting.transmitChoice h
        · exact h

theorem Execution.keeps_true (x : Execution) : x.Keeps fun _ => True := by
  cases x <;> trivial

theorem operationsKeep_notExecuting : OperationsKeep State.NotExecuting where
  reset _ _ _ := nofun
  pins _ _ h := h
  request _ h := executeHead_keeps (P := fun _ => True) (Q := State.NotExecuting) h trivial nofun
    (fun _ => Execution.keeps_true _)
    (fun r st b t _ _ => finishRequest_notExecuting r st b t)
    (fun _ _ => State.NotExecuting.transmitChoice (State.NotExecuting.drainEnd nofun))
    (fun _ _ => State.NotExecuting.transmitChoice nofun)
  ppsEdge _ h := primitivesKeep_notExecuting.ppsEdge h
  check _ h := primitivesKeep_notExecuting.reachCheck h
  lastGrain _ h := primitivesKeep_notExecuting.reachLastGrain h
  cadence _ h := primitivesKeep_notExecuting.reachCadence h
  deadline n _ h := primitivesKeep_notExecuting.reachDeadline n h
  ingestByte _ _ _ h := sendingKeep_notExecuting.ingestByte h
  placement _ h := primitivesKeep_notExecuting.placementStep h
  description _ h := primitivesKeep_notExecuting.descriptionHandling h
  handOver s h := by
    unfold handOverSet
    split
    · split
      · exact sendingKeep_notExecuting.considerViews h
      · exact sendingKeep_notExecuting.considerViews ((handOver_notExecuting h).of_command rfl)
    · exact h
  assemblyEnd _ h := primitivesKeep_notExecuting.assemblyEnd (fun _ h => h.drainEnd) h
  transmissionEnd _ _ h := h.of_command (by simp)
  look _ _ h := lookAtBusy_notExecuting h
  inhibit _ h := State.NotExecuting.transmitChoice h
  commandByte b s h := by
    unfold commandByte
    dsimp only
    split
    · exact h
    · exact h
    · exact h
    · exact completeRequest_notExecuting h
  transmitted s h := by
    obtain ⟨_, e⟩ | e | e | e := commandTransmissionEnd_cases s <;> rw [e]
    · exact State.NotExecuting.transmitChoice h
    · exact State.NotExecuting.transmitChoice h
    · exact nofun
    · exact h

end

theorem exec_answers (c : Instr) (s : State) : ∃ t, exec c s = .next t := by
  cases c <;> exact ⟨_, rfl⟩

/-- Settles O2: every operation of the block keeps the queue of waiting commands, and leaves the processor
in the midst of an execution only where it found it there. -/
theorem commandsAnswerAndKeepTheQueue : Obligations.CommandsAnswerAndKeepTheQueue := by
  intro c s
  obtain ⟨t, answered⟩ := exec_answers c s
  exact ⟨t, answered, (operationsKeep_pending s.pending).exec rfl answered,
    fun h => operationsKeep_notExecuting.exec h answered⟩

end Sys2Proof.Machine

/-! The Time Reference: the commands of its events, once local time has reached what they stand for. -/

namespace Sys2Proof.Machine

section
variable {s : State} {v : Nat} {f : State → State}

/-! ## Reaching a time (R18, log 11) -/

theorem whenReached_reached (running : s.time.stopped = false) (reached : v ≤ s.time.grains) :
    whenReached v f s = f s := by
  simp [whenReached, State.reaches, advanceTo, running, reached]

theorem whenReached_stopped (stopped : s.time.stopped = true) : whenReached v f s = s := by
  simp [whenReached, State.reaches, stopped]

theorem grains_eq (t : TimeRef) : t.grains = t.second * 6000000 + t.fraction := rfl

theorem reachCheck_of_toCome (running : s.time.stopped = false) (toCome : s.time.checkTaken = false)
    (beyond : s.time.captureWindow < s.time.fraction) : reachCheck s = ppsCheck s := by
  have next : s.time.nextCheck = some (s.time.second * 6000000 + s.time.captureWindow + 1) := by
    simp [TimeRef.nextCheck, toCome, Config.grainsPerSecond]
  have reached : s.time.second * 6000000 + s.time.captureWindow + 1 ≤ s.time.grains := by
    rw [grains_eq]
    omega
  rw [reachCheck, next]
  exact whenReached_reached running reached

theorem ppsCheck_of_mark (mark : s.time.boundaryMark = true) : ppsCheck s =
    { s with time := { s.time with boundaryMark := false, checkTaken := true } } := by
  rw [ppsCheck, if_pos mark]

theorem ppsCheck_of_no_mark (mark : s.time.boundaryMark = false) : ppsCheck s =
    missingPps { s with time := { s.time with checkTaken := true } } := by
  rw [ppsCheck, if_neg (by rw [mark]; decide)]

/-- Settles O12: the check is reached, and acts by the boundary mark and the quality. -/
theorem missingPpsCheckActsOnTheQuality : Obligations.MissingPpsCheckActsOnTheQuality := by
  intro s rest running toCome beyond
  have acts : exec .missingPpsCheck s = .next (ppsCheck s) := by
    rw [← reachCheck_of_toCome running toCome beyond]
    exact event_at_rest rest reachCheck
  rw [acts]
  refine ⟨fun mark => by rw [ppsCheck_of_mark mark], fun mark => ?_⟩
  rw [ppsCheck_of_no_mark mark, missingPps]
  refine ⟨?_, fun quality => ?_, fun quality below => ?_, fun quality above => ?_⟩
  · rintro (quality | quality) <;> simp only [quality]
  · simp only [quality]
  · simp only [quality, if_pos below]
  · simp only [quality, if_neg (Nat.not_lt.2 above), enterFreeRun]

/-- Settles O13: the last grain is reached, and a stopped clock reaches nothing. -/
theorem localTimeStopsAtItsLastGrain : Obligations.LocalTimeStopsAtItsLastGrain := by
  intro s rest
  refine ⟨fun running second fraction => ?_, fun stopped => ⟨?_, ?_, ?_, fun n => ?_, ?_⟩⟩
  · have reached : lastGrain ≤ s.time.grains := by
      rw [grains_eq, second, fraction]
      simp only [lastGrain, Config.maxSecond, Config.grainsPerSecond]
      omega
    show event reachLastGrain s = _
    rw [event_at_rest rest, reachLastGrain, whenReached_reached running reached]
  · show event reachCheck s = _
    rw [event_at_rest rest, reachCheck]
    split
    · rw [whenReached_stopped stopped]
    · rfl
  · show event reachCadence s = _
    rw [event_at_rest rest, reachCadence]
    split
    · rw [whenReached_stopped stopped]
    · rfl
  · show event reachLastGrain s = _
    rw [event_at_rest rest, reachLastGrain, whenReached_stopped stopped]
  · show event (reachDeadline n) s = _
    rw [event_at_rest rest, reachDeadline]
    split
    · rw [whenReached_stopped stopped, ite_self]
    · rfl
  · rw [tick, stopped, Bool.or_true, if_pos rfl]

end

/-! ## PPS edges (R19 to R21) -/

section
variable {t : TimeRef} {u : State} {b : Nat} {op : OpState}

theorem markedSecond_of_window (narrow : t.captureWindow ≤ 6000)
    (window : t.fraction ≤ t.captureWindow ∧ b = t.second ∨
      6000000 - t.captureWindow ≤ t.fraction ∧ t.fraction ≤ 5999999 ∧ t.second < 4294967295 ∧
        b = t.second + 1) : t.markedSecond = some b := by
  obtain ⟨late, rfl⟩ | ⟨early, _, second, rfl⟩ := window
  · exact if_pos late
  · exact (if_neg (by omega)).trans (if_pos ⟨early, second⟩)

theorem markedSecond_of_outside (late : t.captureWindow < t.fraction)
    (early : t.fraction < 6000000 - t.captureWindow ∨ t.second = 4294967295) :
    t.markedSecond = none := by
  refine (if_neg (by omega)).trans (if_neg fun h => ?_)
  have close : 6000000 - t.captureWindow ≤ t.fraction := h.1
  have second : t.second < 4294967295 := h.2
  omega

theorem appliesPending_iff : t.appliesPending op b = true ↔
    ∃ p, t.pendingSecond = some p ∧ (op = .idle ∨ p = b) := by
  unfold TimeRef.appliesPending
  cases t.pendingSecond <;> simp

/-- The second an in-window edge gives (R20): the pending one in IDLE, where an applied one outside IDLE is
the second marked. -/
theorem captured_second : (t.captured op b).second =
    if op = .idle then t.pendingSecond.getD b else b := by
  unfold TimeRef.captured TimeRef.moveTo TimeRef.appliesPending
  cases hp : t.pendingSecond with
  | none => simp
  | some p => by_cases hi : op = .idle <;> by_cases he : p = b <;> simp [hi, he]

theorem capture_eq : capture b u =
    (u.time.captureCause u.reporting.opState b).elim
      { u with time := u.time.captured u.reporting.opState b }
      fun c => raiseTime c { u with time := u.time.captured u.reporting.opState b } := by
  unfold capture
  dsimp only
  cases u.time.captureCause u.reporting.opState b <;> rfl

end

/-- The quality and the holdover seconds after an in-window edge, by the table of R20. -/
theorem captured_quality (t : TimeRef) (op : OpState) (b : Nat) {applied : Bool}
    (applies : t.appliesPending op b = applied) :
    (t.quality = .unset → applied = false → (t.captured op b).quality = .unset ∧
      (t.captured op b).holdoverSeconds = t.holdoverSeconds) ∧
    (t.quality = .unset → applied = true → (t.captured op b).quality = .locked ∧
      (t.captured op b).holdoverSeconds = 0) ∧
    (t.quality = .locked → (t.captured op b).quality = .locked ∧
      (t.captured op b).holdoverSeconds = t.holdoverSeconds) ∧
    (t.quality = .holdover ∨ t.quality = .freeRun → (t.captured op b).quality = .locked ∧
      (t.captured op b).holdoverSeconds = 0) := by
  simp only [TimeRef.captured, TimeRef.holdoverAfterCapture, applies]
  refine ⟨?_, ?_, ?_, ?_⟩
  · rintro q rfl; simp [q, TimeQuality.afterCapture]
  · rintro q rfl; simp [q, TimeQuality.afterCapture]
  · intro q; simp [q, TimeQuality.afterCapture]
  · rintro (q | q) <;> simp [q, TimeQuality.afterCapture]

/-- The cause of the notice of an in-window edge, by the table of R24. -/
theorem captureCause_cases (t : TimeRef) (op : OpState) (b : Nat) {applied : Bool}
    (applies : t.appliesPending op b = applied) :
    (t.pendingSecond ≠ none → applied = false → t.captureCause op b = some .pendingDiscarded) ∧
    (t.pendingSecond = none ∨ applied = true → (t.captured op b).quality ≠ t.quality →
      t.captureCause op b = some .captured) ∧
    (applied = true → (t.captured op b).quality = t.quality →
      t.captureCause op b = some .pending) ∧
    (t.pendingSecond = none → (t.captured op b).quality = t.quality → t.captureCause op b = none) := by
  simp only [TimeRef.captured, TimeRef.captureCause, applies]
  have absent : t.pendingSecond = none → applied = false := by
    intro none
    rw [← applies, TimeRef.appliesPending, none]
  refine ⟨?_, ?_, ?_, ?_⟩
  · rintro some rfl
    simp [Option.isSome_iff_ne_none.2 some]
  · rintro (none | rfl) changed
    · simp [none, changed]
    · simp [changed]
  · rintro rfl same
    simp [same]
  · intro none same
    rw [absent none] at same
    simp [none, same, absent none]

/-- Settles O10: the edge finds `u`, and is captured there. -/
theorem inWindowEdgeSnapsLocalTime : Obligations.InWindowEdgeSnapsLocalTime := by
  refine ⟨fun s sorted => ⟨_, (delivers_iff sorted _).2 rfl⟩, ?_⟩
  intro s u b rest sorted delivered atRest narrow window
  have edge : exec .ppsEdge s = .next (capture b u) := by
    rw [exec_ppsEdge rest sorted delivered atRest, ppsEdge, markedSecond_of_window narrow window]
  refine ⟨u.time.captured u.reporting.opState b, u.time.captureCause u.reporting.opState b,
    by rw [edge, capture_eq], rfl, rfl, rfl, rfl, rfl, rfl, ?_, ?_, ?_, rfl, rfl, rfl⟩
  · intro p pending idle
    rw [captured_second, if_pos idle, pending, Option.getD_some]
  · rintro (none | busy)
    · rw [captured_second, none, Option.getD_none, ite_self]
    · rw [captured_second, if_neg busy]
  · intro applied meaning
    cases applies : u.time.appliesPending u.reporting.opState b with
    | false =>
      have not : ¬applied := fun h => by
        rw [appliesPending_iff.2 (meaning.1 h)] at applies
        exact absurd applies (by decide)
      obtain ⟨unset, -, locked, lost⟩ := captured_quality u.time u.reporting.opState b applies
      obtain ⟨discarded, captured, -, none⟩ :=
        captureCause_cases u.time u.reporting.opState b applies
      exact ⟨fun q _ => unset q rfl, fun _ h => absurd h not, locked, lost,
        fun some _ => discarded some rfl,
        fun h => captured (h.imp_right fun h => absurd h not), fun h => absurd h not, none⟩
    | true =>
      have yes : applied := meaning.2 (appliesPending_iff.1 applies)
      obtain ⟨-, unset, locked, lost⟩ := captured_quality u.time u.reporting.opState b applies
      obtain ⟨-, captured, pending, none⟩ :=
        captureCause_cases u.time u.reporting.opState b applies
      exact ⟨fun _ h => absurd yes h, fun q _ => unset q rfl, locked, lost,
        fun _ h => absurd yes h, fun h => captured (h.imp_right fun _ => rfl),
        fun _ => pending rfl, none⟩

/-- Settles O11: the edge finds `u`, and is an outlier there. -/
theorem outlierEdgesLengthenTheRunAndTheThirdActs :
    Obligations.OutlierEdgesLengthenTheRunAndTheThirdActs := by
  intro s u rest sorted delivered atRest late early
  have edge : exec .ppsEdge s = .next (outlier u) := by
    rw [exec_ppsEdge rest sorted delivered atRest, ppsEdge, markedSecond_of_outside late early]
  rw [edge]
  refine ⟨fun short => ?_, fun third idle => ?_, fun third busy => ?_⟩
  · rw [outlier, if_pos (by omega)]
  · have steps : outlier u = clockStep u := by
      rw [outlier, if_neg (by omega), if_pos idle]
    rw [steps]
    refine ⟨_, rfl, rfl, rfl, rfl, rfl, rfl, rfl, rfl, fun p pending => ?_, fun none => ?_, rfl, rfl,
      rfl⟩
    · simp [TimeRef.moveTo, TimeRef.stepSecond, pending]
    · simp only [TimeRef.moveTo, TimeRef.stepSecond, none, and_true]
      exact (apply_ite (u.time.second + ·) (3000000 ≤ u.time.fraction ∧ u.time.second < 4294967295)
        1 0).symm
  · have frees : outlier u = outlierFreeRun u := by
      rw [outlier, if_neg (by omega), if_neg busy]
    rw [frees]
    refine ⟨?_, fun quality => ?_⟩
    · rintro (quality | quality) <;> simp only [outlierFreeRun, quality, enterFreeRun]
    · simp only [outlierFreeRun, quality]

end Sys2Proof.Machine

/-! What an idle block takes (logs 11, 15): the due request, the end of an assembly, a time-driven event,
else one grain. -/

namespace Sys2Proof.Machine

section
variable {s u : State} {c c' : Instr}

/-! ## The idle step -/

theorem step_of_due (empty : s.pending = []) (due : s.dueCommand = some c) : step s = exec c s := by
  simp [step, empty, idle, due]

theorem step_of_quiet (empty : s.pending = []) (quiet : s.dueCommand = none) :
    step s = .next (tick s) := by
  simp [step, empty, idle, quiet]

theorem dueCommand_of_request {r : Request} {rest : List Request} (out : s.inReset = false)
    (free : s.command.processor = .free) (head : s.command.requests = r :: rest) :
    s.dueCommand = some (requestCommand r.code) := by
  simp [State.dueCommand, out, free, head]

theorem dueCommand_at_rest (rest : s.AtRest) : s.dueCommand =
    if s.assembler.current.isSome && s.assembler.nextView.isNone then some .assemblyEnd
    else s.dueByTime := by
  obtain ⟨out, none⟩ := rest
  unfold State.dueCommand
  rw [out, if_neg (by decide)]
  split
  next free head => simp [State.requestDue, out, free, head] at none
  · rfl

/-! ## Due requests (R159, R167; log 15) -/

/-- The row of a code is the command that executes a request of that code (R167). -/
theorem requestCommand_row {code : Byte} (row : (∃ k, code.toNat = k + 1 ∧ requestRows[k]? = some c) ∨
    (code.toNat = 0 ∨ 29 ≤ code.toNat) ∧ c = .unknownRequest) : requestCommand code = c := by
  obtain ⟨k, value, entry⟩ | ⟨outside, rfl⟩ := row
  · have bound : k < 28 := (List.getElem?_eq_some_iff.1 entry).1
    unfold requestCommand
    rw [value]
    interval_cases k <;> exact Option.some.inj entry
  · unfold requestCommand
    split
    all_goals first | rfl | omega

/-- A command that is neither a request row nor a reset acts on the state in which it finds the part. -/
theorem exec_of_atOnce (same : s.atOnce = u.atOnce) (row : c ∉ Instr.unknownRequest :: requestRows)
    (reset : c ∉ [Instr.powerOn, .resetnAssert, .resetEnd]) : exec c s = exec c u := by
  have found (f : State → State) : event f s = event f u := by rw [event, same, event]
  cases c with
  | powerOn | resetnAssert | resetEnd => simp at reset
  | ppsEdge =>
    show event ppsEdge (deliverReached s) = event ppsEdge (deliverReached u)
    rw [deliverReached, same, deliverReached]
  | missingPpsCheck | localTimeStop | cadenceEvent | deadlineExpiry | ingestByte | ingestFrame
  | placementStep | descriptionHandling | setHandover | assemblyEnd | transmissionEnd | clByte
  | requestFrame | clTransmissionEnd => exact found _
  | busyAssert l => exact congrArg (fun w => answer (State.setBusy w l true)) same
  | busyDeassert l => exact congrArg (fun w => answer (busyDeassert l w)) same
  | inhibitAssert => exact congrArg (fun w => answer (inhibitAssert w)) same
  | inhibitDeassert => exact congrArg (fun w => answer (State.setInhibit w false)) same
  | _ => simp [requestRows] at row

/-! ## Time-driven events (R18, R22, R28, R29) -/

theorem dueByTime_stopped (stopped : s.time.stopped = true) : s.dueByTime = none := by
  simp [State.dueByTime, stopped]

theorem dueByTime_running (running : s.time.stopped = false) : s.dueByTime =
    if s.time.nextCheck.any (· ≤ s.time.grains) then some .missingPpsCheck
    else if s.nextCadence.any (fun n => decide (n * s.grid.period ≤ s.time.grains)) then
      some .cadenceEvent
    else
      match s.watchedSlots.find? fun p => decide (p.2.deadline ≤ s.time.grains) with
      | some p => some (.deadlineExpiry p.1)
      | none => if lastGrain ≤ s.time.grains then some .localTimeStop else none := by
  rw [State.dueByTime, running]
  rfl

/-- The watched slot of `n` has reached its deadline (R29). -/
def State.expiredAt (s : State) (now n : Nat) : Prop :=
  ∃ slot, s.slot? n = some slot ∧ slot.unclosed = true ∧ slot.overdue = false ∧ slot.deadline ≤ now

/-- An entry of the slot map that is watched, and whose deadline is reached. -/
theorem expiredAt_iff (sorted : tableSorted s.window.slots) (now : Nat) (p : Nat × Slot) :
    p ∈ s.watchedSlots ∧ decide (p.2.deadline ≤ now) = true ↔
      s.slot? p.1 = some p.2 ∧ p.2.unclosed = true ∧ p.2.overdue = false ∧ p.2.deadline ≤ now := by
  simp only [State.watchedSlots, List.mem_filter, Slot.watched, Bool.and_eq_true,
    Bool.not_eq_true', decide_eq_true_eq]
  constructor
  · rintro ⟨⟨mem, unclosed, fresh⟩, reached⟩
    exact ⟨tableFind_of_mem sorted mem, unclosed, fresh, reached⟩
  · rintro ⟨found, unclosed, fresh, reached⟩
    exact ⟨⟨mem_of_tableFind found, unclosed, fresh⟩, reached⟩

/-- The first slot the search finds is the oldest expired one (R29). -/
theorem find_expired (sorted : tableSorted s.window.slots) {now n : Nat} (expired : s.expiredAt now n)
    (oldest : ∀ k, s.expiredAt now k → n ≤ k) :
    ∃ slot, s.watchedSlots.find? (fun p => decide (p.2.deadline ≤ now)) = some (n, slot) := by
  obtain ⟨slot, found⟩ := expired
  have ⟨mem, reached⟩ := (expiredAt_iff sorted now (n, slot)).2 found
  cases first : s.watchedSlots.find? (fun p => decide (p.2.deadline ≤ now)) with
  | none => exact absurd reached (List.find?_eq_none.1 first _ mem)
  | some q =>
    obtain ⟨passes, before, after, split, fail⟩ := List.find?_eq_some_iff_append.1 first
    have member : q ∈ s.watchedSlots := by rw [split]; simp
    have le : n ≤ q.1 := oldest q.1 ⟨q.2, (expiredAt_iff sorted now q).1 ⟨member, passes⟩⟩
    have rising : tableSorted s.watchedSlots := sorted.sublist (List.filter_sublist.map _)
    rw [split] at mem rising
    rcases List.mem_append.1 mem with early | late
    · exact absurd reached (by simpa using fail _ early)
    · obtain rfl | later := List.mem_cons.1 late
      · exact ⟨slot, rfl⟩
      · rw [tableSorted, List.map_append, List.map_cons] at rising
        have lt : q.1 < n := (List.pairwise_cons.1 (List.pairwise_append.1 rising).2.1).1 n
          (List.mem_map.2 ⟨(n, slot), later, rfl⟩)
        omega

theorem find_none_expired (sorted : tableSorted s.window.slots) {now : Nat}
    (quiet : ∀ n, ¬s.expiredAt now n) :
    s.watchedSlots.find? (fun p => decide (p.2.deadline ≤ now)) = none :=
  List.find?_eq_none.2 fun p mem reached =>
    quiet p.1 ⟨p.2, (expiredAt_iff sorted now p).1 ⟨mem, reached⟩⟩

/-! ## One grain (R18, R22; log 13) -/

/-- A grain passes within a second, or ends it; the check of a new second is to come. -/
theorem tick_advances (out : s.inReset = false) (running : s.time.stopped = false)
    (before : s.time.second * 6000000 + s.time.fraction < lastGrain)
    (fraction : s.time.fraction < 6000000) : tick s =
    { s with time := { s.time with
      second := s.time.second + if s.time.fraction = 5999999 then 1 else 0
      fraction := if s.time.fraction = 5999999 then 0 else s.time.fraction + 1
      checkTaken := s.time.checkTaken && decide (s.time.fraction ≠ 5999999) } } := by
  have next : min (s.time.grains + 1) lastGrain = s.time.second * 6000000 + s.time.fraction + 1 := by
    rw [grains_eq]
    exact min_eq_left before
  rw [tick, out, running, Bool.or_false, if_neg (by decide), next, advanceTo,
    if_neg (by rw [grains_eq]; omega)]
  have second : (s.time.second * 6000000 + s.time.fraction + 1) / Config.grainsPerSecond =
      s.time.second + if s.time.fraction = 5999999 then 1 else 0 := by
    show (s.time.second * 6000000 + s.time.fraction + 1) / 6000000 = _
    split <;> omega
  have left : (s.time.second * 6000000 + s.time.fraction + 1) % Config.grainsPerSecond =
      if s.time.fraction = 5999999 then 0 else s.time.fraction + 1 := by
    show (s.time.second * 6000000 + s.time.fraction + 1) % 6000000 = _
    split <;> omega
  have new : decide ((s.time.second + if s.time.fraction = 5999999 then 1 else 0) = s.time.second) =
      decide (s.time.fraction ≠ 5999999) := by
    split <;> simp_all
  rw [second, left, new]

end

/-- Settles O3: `dueCommand` names the row of a due request, the end of an assembly, and the time-driven
events, in this order; with nothing due a grain passes. -/
theorem dueWorkIsTakenInOrderElseOneGrain : Obligations.DueWorkIsTakenInOrderElseOneGrain := by
  intro s
  refine ⟨?_, fun empty lasts => ?_, fun empty rest sorted => ⟨?_, fun views => ⟨?_, ?_⟩⟩⟩
  · intro r rest c c' u out free head row
    have due : s.requestDue = true := (requestDue_iff s).2 ⟨out, free, by simp [head]⟩
    obtain rfl := requestCommand_row row
    refine ⟨fun empty => step_of_due empty (dueCommand_of_request out free head), ?_⟩
    intro executed notRow notReset
    rw [exec_requestCommand due head] at executed
    cases executed
    exact exec_of_atOnce (atOnce_of_due due) notRow notReset
  · rw [step_of_quiet empty (by simp [State.dueCommand, lasts]), tick, lasts, Bool.true_or, if_pos rfl]
  · intro n current considered
    refine step_of_due empty ?_
    rw [dueCommand_at_rest rest, current, considered]
    rfl
  all_goals
    have byTime : s.dueCommand = s.dueByTime := by
      rw [dueCommand_at_rest rest]
      rcases views with none | some
      · rw [none]; rfl
      · rw [Option.isNone_eq_false_iff.2 (Option.isSome_iff_ne_none.2 some), Bool.and_false]; rfl
  · intro stopped
    rw [step_of_quiet empty (byTime.trans (dueByTime_stopped stopped)), tick, stopped, Bool.or_true,
      if_pos rfl]
  · rintro running now check cadence expired rfl checkDue cadenceDue expiredMeans
    rw [dueByTime_running running] at byTime
    have checkIff := checkDue.trans (nextCheck_due s.time s.time.grains).symm
    have cadenceIff := cadenceDue.trans (nextCadence_due s s.time.grains).symm
    refine ⟨fun due => ?_, fun no due => ?_, fun n no quiet some oldest => ?_, fun no quiet none => ?_⟩
    · rw [if_pos (checkIff.1 due)] at byTime
      exact step_of_due empty byTime
    · rw [if_neg (mt checkIff.2 no), if_pos (cadenceIff.1 due)] at byTime
      exact step_of_due empty byTime
    · rw [if_neg (mt checkIff.2 no), if_neg (mt cadenceIff.2 quiet)] at byTime
      obtain ⟨slot, found⟩ := find_expired sorted ((expiredMeans n).1 some)
        (fun k hk => oldest k ((expiredMeans k).2 hk))
      refine step_of_due empty (byTime.trans ?_)
      rw [grains_eq, found]
    · rw [if_neg (mt checkIff.2 no), if_neg (mt cadenceIff.2 quiet), grains_eq,
        find_none_expired sorted fun n h => none n ((expiredMeans n).2 h)] at byTime
      refine ⟨fun last => ?_, fun before fraction => ?_⟩
      · exact step_of_due empty (byTime.trans (if_pos last))
      · have passes := step_of_quiet empty (byTime.trans (if_neg (Nat.not_le.2 before)))
        rw [tick_advances rest.1 running before fraction] at passes
        refine ⟨_, passes, fun within => ?_, fun ends => ?_, rfl⟩
        · have ne : s.time.fraction ≠ 5999999 := by omega
          exact ⟨by simp [ne], by simp [ne], by simp [ne]⟩
        · exact ⟨by simp [ends], by simp [ends], by simp [ends]⟩

end Sys2Proof.Machine

/-! Fault flags once set stay set through notices, takes and walks. -/

namespace Sys2Proof.Machine

/-- No fault flag is cleared. -/
def FlagsKept (s t : State) : Prop := ∀ f, s.flag f = true → t.flag f = true

section
variable {s t u : State}

theorem FlagsKept.refl (s : State) : FlagsKept s s := fun _ h => h

theorem FlagsKept.trans (first : FlagsKept s t) (second : FlagsKept t u) : FlagsKept s u :=
  fun f h => second f (first f h)

theorem FlagsKept.of_faults (same : t.reporting.faults = s.reporting.faults) : FlagsKept s t :=
  fun f h => by rw [State.flag, same]; exact h

theorem FlagsKept.after (kept : FlagsKept t u) (same : t.reporting.faults = s.reporting.faults) :
    FlagsKept s u := (FlagsKept.of_faults same).trans kept

/-- Setting a flag sets that flag alone (R177). -/
theorem flag_setFlag (f g : FaultFlag) (s : State) :
    (setFlag f s).flag g = (decide (g = f) || s.flag g) := by
  cases f <;> cases g <;> rfl

theorem setFlag_self (f : FaultFlag) (s : State) : (setFlag f s).flag f = true := by
  simp [flag_setFlag]

theorem setFlag_flagsKept (f : FaultFlag) (s : State) : FlagsKept s (setFlag f s) := fun g h => by
  rw [flag_setFlag, h, Bool.or_true]

theorem transmitChoice_faults (s : State) :
    (transmitChoice s).reporting.faults = s.reporting.faults := by
  unfold transmitChoice
  split
  · rfl
  · split
    · rw [replyPlaceFreed_reporting]
    · split
      · rfl
      · split
        · rfl
        · rfl

theorem enterNotice_flagsKept (n : Notice) (s : State) : FlagsKept s (enterNotice n s) := by
  unfold enterNotice
  dsimp only
  split
  · exact .of_faults rfl
  · split
    · exact (setFlag_flagsKept _ _).after rfl
    · exact (setFlag_flagsKept _ _).after rfl

theorem raiseNotice_flagsKept (c : NoticeClass) (x : Subject) (d : Nat) (s : State) :
    FlagsKept s (raiseNotice c x d s) := by
  unfold raiseNotice
  dsimp only
  split
  · exact .refl s
  · have after (u : State) : FlagsKept u (afterNotice u) := by
      unfold afterNotice
      split
      · exact .refl _
      · exact .of_faults (transmitChoice_faults _)
    exact (enterNotice_flagsKept _ s).trans (after _)

theorem switchView_flagsKept (n : Nat) (s : State) (v : ViewId) : FlagsKept s (switchView n s v) := by
  unfold switchView
  split
  · split
    · exact (raiseNotice_flagsKept _ _ _ _).after rfl
    · exact .refl s
  · exact .refl s

theorem visitEntry_flagsKept (n : Nat) (c : Table SampleRecord) (a : State × Bool) (i : Nat) :
    FlagsKept a.1 (visitEntry n c a i).1 := by
  unfold visitEntry
  dsimp only
  split
  · split
    · refine (raiseNotice_flagsKept _ _ _ _).after ?_
      split <;> simp
    · refine .of_faults ?_
      split <;> simp
  · exact .refl _

theorem foldl_flagsKept {α β : Type} (state : α → State) (f : α → β → α)
    (h : ∀ a b, FlagsKept (state a) (state (f a b))) (l : List β) (a : α) :
    FlagsKept (state a) (state (l.foldl f a)) := by
  induction l generalizing a with
  | nil => exact .refl _
  | cons b l ih => exact (h a b).trans (ih (f a b))

theorem takeHead_flagsKept (n : Nat) (rest : List Nat) (s : State) :
    FlagsKept s (takeHead n rest s).1 := by
  have pass (c : Table SampleRecord) (s : State) : FlagsKept s (dispositionPass n c s).1 :=
    foldl_flagsKept Prod.fst _ (visitEntry_flagsKept n c) s.sourceIndices (s, false)
  have switch (k : Nat) (s : State) : FlagsKept s (boundarySwitch k s) :=
    foldl_flagsKept id _ (switchView_flagsKept k) ViewId.all s
  have views (u : State) : FlagsKept u (considerViews n ViewId.all u) := .of_faults (by simp)
  unfold takeHead
  dsimp only
  refine .trans (.trans ?_ (pass _ _)) (views _)
  by_cases first : instantIndex s.grid.rate n = 0
  · rw [if_pos first]
    exact (switch _ _).after rfl
  · rw [if_neg first]
    exact .of_faults rfl

theorem takeAndReevaluate_flagsKept (s : State) : FlagsKept s (takeAndReevaluate s) := by
  have take : FlagsKept s (takeIfIdle s).1 := by
    unfold takeIfIdle
    split
    · exact takeHead_flagsKept _ _ s
    · exact .refl s
  unfold takeAndReevaluate
  dsimp only
  split
  · exact take.trans (.of_faults (by simp))
  · exact take

theorem settle_flagsKept (s : State) : FlagsKept s (settle s) :=
  (takeAndReevaluate_flagsKept _).after (by simp)

end

end Sys2Proof.Machine

/-! The window's events of local time: room, cadence events, overruns and deadline expiries. -/

namespace Sys2Proof.Machine

/-! ## Rising lists -/

theorem rising_last {l : List Nat} {x : Nat} (rising : l.Pairwise (· < ·)) (mem : x ∈ l)
    (greatest : ∀ y ∈ l, y ≤ x) : l.getLast? = some x := by
  have nonempty : l ≠ [] := List.ne_nil_of_mem mem
  have split := List.dropLast_append_getLast nonempty
  rw [List.getLast?_eq_some_getLast nonempty]
  rw [← split] at rising mem
  rcases List.mem_append.1 mem with early | last
  · have lt := (List.pairwise_append.1 rising).2.2 x early _ (List.mem_singleton_self _)
    have le := greatest _ (List.getLast_mem nonempty)
    omega
  · rw [List.mem_singleton.1 last]

/-- Two lists of pairs with rising keys and the same members are equal. -/
theorem risingPairs_ext {β : Type} {a b : List (Nat × β)} (ha : (a.map (·.1)).Pairwise (· < ·))
    (hb : (b.map (·.1)).Pairwise (· < ·)) (members : ∀ p, p ∈ a ↔ p ∈ b) : a = b := by
  rw [List.pairwise_map] at ha hb
  have distinct {l : List (Nat × β)} (h : l.Pairwise fun p q => p.1 < q.1) : l.Nodup :=
    h.imp fun lt eq => by rw [eq] at lt; exact lt_irrefl _ lt
  exact ((List.perm_ext_iff_of_nodup (distinct ha) (distinct hb)).2 members).eq_of_pairwise
    (fun p q _ _ lt gt => absurd lt (lt_asymm gt)) ha hb

/-! ## The room test (R86) -/

theorem tableSorted_bounds {α : Type} {p : Nat × α} {t : Table α} (sorted : tableSorted (p :: t)) :
    ∃ newest ∈ (p :: t).map (·.1), tableLast (p :: t) = some newest ∧
      ∀ a ∈ (p :: t).map (·.1), p.1 ≤ a ∧ a ≤ newest := by
  have nonempty : (p :: t).map (·.1) ≠ [] := by simp
  have split := List.dropLast_append_getLast nonempty
  refine ⟨_, List.getLast_mem nonempty, ?_, fun a mem => ⟨?_, ?_⟩⟩
  · rw [tableLast, ← List.getLast?_map, List.getLast?_eq_some_getLast nonempty]
  · obtain rfl | later := List.mem_cons.1 mem
    · exact le_rfl
    · exact ((List.pairwise_cons.1 sorted).1 a later).le
  · rw [tableSorted, ← split] at sorted
    rw [← split] at mem
    rcases List.mem_append.1 mem with early | last
    · exact ((List.pairwise_append.1 sorted).2.2 a early _ (List.mem_singleton_self _)).le
    · exact (List.mem_singleton.1 last).le

/-- Settles O14: the oldest and the newest instant bound every span. -/
theorem roomTestAllowsASpanOf256Instants : Obligations.RoomTestAllowsASpanOf256Instants := by
  intro n slots sorted
  unfold roomFor
  cases slots with
  | nil => simp [tableFirst, Config.slotCapacity]
  | cons p t =>
    obtain ⟨newest, mem, last, bounds⟩ := tableSorted_bounds sorted
    rw [last]
    simp only [tableFirst, List.head?_cons, Option.map_some, Bool.and_eq_true, decide_eq_true_eq]
    refine and_congr Iff.rfl ⟨fun span a ha b hb => ?_, fun span => ?_⟩
    · have within {c : Nat} (hc : c ∈ n :: (p :: t).map (·.1)) :
          min p.1 n ≤ c ∧ c ≤ max newest n := by
        obtain rfl | hc := List.mem_cons.1 hc
        · exact ⟨min_le_right .., le_max_right ..⟩
        · have := bounds c hc
          omega
      have := within ha
      have := within hb
      omega
    · have first : p.1 ∈ n :: (p :: t).map (·.1) := by simp
      have := span newest (.tail _ mem) p.1 first
      have := span newest (.tail _ mem) n (.head _)
      have := span n (.head _) p.1 first
      omega

section
variable {s : State} {n m : Nat}

/-! ## Cadence events (R28, R101, R102) -/

theorem exec_cadenceEvent {u : State} (rest : s.AtRest) (running : s.time.stopped = false)
    (op : s.reporting.opState = .running) (mark : s.time.cadenceMark = some m)
    (reached : (m + 1) * s.grid.period ≤ s.time.second * 6000000 + s.time.fraction)
    (moved : u = { s with time := { s.time with cadenceMark := some (m + 1) } }) :
    exec .cadenceEvent s = .next (cadence (m + 1) u) := by
  have next : s.nextCadence = some (m + 1) := by
    rw [State.nextCadence, if_pos op, mark]
    rfl
  show event reachCadence s = _
  rw [event_at_rest rest, reachCadence, next, moved]
  exact congrArg _ (whenReached_reached running reached)

theorem deadlineNow_eq (s : State) (n : Nat) : deadlineNow s n = n * s.grid.period +
    (if s.window.config.wait = .fixed then waitGrains s.window.config.fixedCode
     else min (max (lmax s.sources + s.window.config.margin) s.window.config.minWait)
       (waitGrains s.window.config.capCode)) := by
  unfold deadlineNow waitNow
  cases s.window.config.wait <;> rfl

theorem horizon_reaches_iff :
    (s.window.horizon.any fun h => decide (n ≤ h)) = true ↔
      ∃ h, s.window.horizon = some h ∧ n ≤ h := by
  cases s.window.horizon <;> simp

theorem cadence_of_known (known : (∃ h, s.window.horizon = some h ∧ n ≤ h) ∨ s.slot? n ≠ none) :
    cadence n s = s := by
  unfold cadence
  split
  · rfl
  · rename_i above
    have present := known.resolve_left fun h => above (horizon_reaches_iff.2 h)
    rw [if_pos (Option.isSome_iff_ne_none.2 present)]

theorem cadence_of_new (above : ∀ h, s.window.horizon = some h → h < n) (absent : s.slot? n = none) :
    cadence n s =
      if roomFor n s.window.slots then expireOpened n (openSlot n .cadence s) else overrun n s := by
  have not : ¬(s.window.horizon.any fun h => decide (n ≤ h)) = true := fun h => by
    obtain ⟨h, eq, le⟩ := horizon_reaches_iff.1 h
    have := above h eq
    omega
  rw [cadence, if_neg not, absent]
  rfl

end

/-- Settles O15: the event opens the slot, which expires where its deadline is reached. -/
theorem cadenceEventOpensTheSlotOfItsInstant : Obligations.CadenceEventOpensTheSlotOfItsInstant := by
  rintro s u v m n deadline rest running op mark rfl reached uIs deadlineIs vIs
  have opened : openSlot (m + 1) .cadence u = v := by
    rw [vIs, deadlineIs, openSlot, deadlineNow_eq, uIs]
    rfl
  have atOpen : v.slot? (m + 1) = some ⟨.opened, .cadence, deadline, [], none, false⟩ := by
    rw [vIs]
    exact tableFind_insert_self ..
  have time : v.time = { s.time with cadenceMark := some (m + 1) } := by rw [vIs, uIs]
  have atRest : v.AtRest := by rw [vIs, uIs]; exact rest
  have window : u.window = s.window := by rw [uIs]
  rw [exec_cadenceEvent rest running op mark reached uIs]
  simp only [State.slot?] at *
  rw [← window]
  refine ⟨fun known => ?_, fun above absent room => ⟨fun later => ?_, fun passed => ?_⟩⟩
  · rw [cadence_of_known known]
  · rw [cadence_of_new above absent, if_pos room, opened, (expireOpened_spec _ v).2]
    intro slot found
    cases atOpen.symm.trans found
    refine .inr (.inr ?_)
    rw [time]
    exact later
  · rw [cadence_of_new above absent, if_pos room, opened]
    refine ((expireOpened_spec _ v).1 _ atRest atOpen rfl ?_ ?_).symm
    · rw [time]
      exact running
    · rw [time]
      exact passed

/-! ## Lists of closes -/

section
variable {s : State}

theorem closeAll_eq_foldl (l : List (Nat × CloseReason)) (s : State) :
    closeAll l s = l.foldl (fun w p => closeSlot p.1 p.2 w) s := by
  induction l generalizing s with
  | nil => rfl
  | cons p l ih => exact ih _

theorem closeAll_reason (r : CloseReason) (l : List Nat) (s : State) :
    closeAll (l.map (·, r)) s = l.foldl (fun w k => closeSlot k r w) s := by
  rw [closeAll_eq_foldl, List.foldl_map]

/-- A rising list of the unclosed slots that a test names is the list of closes. -/
theorem toClose_eq (sorted : tableSorted s.window.slots) (r : CloseReason) {p : Nat → Bool}
    {closes : List Nat} (rising : closes.Pairwise (· < ·))
    (members : ∀ k, k ∈ closes ↔ p k = true ∧ ∃ slot, s.slot? k = some slot ∧ slot.unclosed = true) :
    s.toClose r p = closes.map (·, r) := by
  have keys : (s.unclosedSlots.filter fun q => p q.1).map (·.1) = closes := by
    refine rising_ext ((unclosedSlots_sorted sorted).sublist (List.filter_sublist.map _)) rising
      fun k => ?_
    rw [members]
    simp only [List.mem_map, List.mem_filter, Prod.exists, exists_and_right, exists_eq_right,
      mem_unclosedSlots sorted]
    exact and_comm
  rw [← keys, State.toClose, List.map_map]
  rfl

/-- Closing what a rising list names, each an unclosed slot, and what follows: each slot named is closed for
its reason, with its contributors. -/
theorem settle_closeAll_closed {l : List (Nat × CloseReason)} {t : State}
    (rising : (l.map (·.1)).Pairwise (· < ·))
    (unclosed : ∀ p ∈ l, ∃ v, s.slot? p.1 = some v ∧ v.unclosed = true)
    (kept : SlotsKept (closeAll l s) t) {k : Nat} {r : CloseReason} {slot : Slot} (mem : (k, r) ∈ l)
    (found : s.slot? k = some slot) : ∃ slot', t.slot? k = some slot' ∧ slot'.unclosed = false ∧
      slot'.closeReason = some r ∧ slot'.contributors = slot.contributors :=
  kept.closed k _ ((closeAll_closes l s rising unclosed).1 k r slot mem found) rfl

end

/-- Settles O16: the overrun closes the list, and what follows keeps its closes. -/
theorem overrunClosesOlderSlotsAndSkipsTheInstant :
    Obligations.OverrunClosesOlderSlotsAndSkipsTheInstant := by
  rintro s u v m n closes rest running sorted op mark rfl reached above absent full rising members
    uIs vIs
  have event := exec_cadenceEvent rest running op mark reached uIs
  have window : u.window = s.window := by rw [uIs]
  have mark : u.time.cadenceMark = some (m + 1) := by rw [uIs]
  simp only [State.slot?] at *
  simp only [← window] at *
  rw [cadence_of_new above absent, if_neg (by rw [full]; decide), overrun,
    toClose_eq sorted .overrun rising (p := fun k => decide (k < m + 1))
      fun k => by rw [members, decide_eq_true_iff]; rfl, closeAll_reason, ← vIs] at event
  refine ⟨_, event, rfl, ?_⟩
  rw [← closeAll_reason] at vIs
  have keys : ((closes.map (·, CloseReason.overrun)).map (·.1)).Pairwise (· < ·) := by
    rwa [List.map_map, show ((·.1) ∘ (·, CloseReason.overrun)) = @id Nat from rfl, List.map_id]
  have unclosed : ∀ p ∈ closes.map (·, CloseReason.overrun),
      ∃ v, u.slot? p.1 = some v ∧ v.unclosed = true := by
    intro p mem
    obtain ⟨k, listed, rfl⟩ := List.mem_map.1 mem
    exact ((members k).1 listed).2
  obtain ⟨closed, others, -, skipped, -⟩ := closeAll_closes _ u keys unclosed
  rw [← vIs] at closed others skipped
  have kept := settle_slotsKept (setFlag .overrun
    (v.countWindow fun c => { c with skippedInstants := bump c.skippedInstants }))
  refine ⟨kept.none _ ((others _ fun mem => ?_).trans absent),
    settle_flagsKept _ _ (setFlag_self _ _), ?_, kept.skip.trans (congrArg bump skipped), ?_⟩
  · obtain ⟨p, mem, eq⟩ := List.mem_map.1 mem
    obtain ⟨k, listed, rfl⟩ := List.mem_map.1 mem
    exact absurd ((members k).1 listed).1 (eq ▸ lt_irrefl _)
  · rw [settle_time]
    show v.time.cadenceMark = _
    rw [vIs, closeAll_time, mark]
  · intro k slot found isUnclosed lt
    exact kept.closed k _ (closed k _ slot
      (List.mem_map_of_mem ((members k).2 ⟨lt, slot, found, isUnclosed⟩)) found) rfl

/-! ## Deadline expiries (R29, R108, R109) -/

section
variable {s : State} {x : Nat} {slot : Slot}

theorem exec_deadlineExpiry (rest : s.AtRest) (running : s.time.stopped = false)
    (found : s.slot? x = some slot) (unclosed : slot.unclosed = true) (fresh : slot.overdue = false)
    (reached : slot.deadline ≤ s.time.second * 6000000 + s.time.fraction) :
    exec (.deadlineExpiry x) s = .next (deadlineExpiry x s) := by
  have watched : slot.watched = true := by rw [Slot.watched, unclosed, fresh]; rfl
  show event (reachDeadline x) s = _
  rw [event_at_rest rest, reachDeadline, found]
  refine congrArg _ ?_
  dsimp only
  rw [if_pos watched]
  exact whenReached_reached running reached

/-- A rising list of the unclosed slots up to `x`, with their reasons, is the list of closes (R108). -/
theorem expiryCloses_eq (sorted : tableSorted s.window.slots) {closes : List (Nat × CloseReason)}
    (rising : (closes.map (·.1)).Pairwise (· < ·))
    (members : ∀ k r, (k, r) ∈ closes ↔ k ≤ x ∧ ∃ slot, s.slot? k = some slot ∧
      slot.unclosed = true ∧
      r = if s.window.config.mode = .early ∧ slot.state = .ready then .complete else .deadline) :
    expiryCloses x s = settle (closeAll closes s) := by
  unfold expiryCloses
  congr 2
  refine risingPairs_ext ?_ rising fun ⟨k, r⟩ => ?_
  · rw [List.map_map]
    exact (unclosedSlots_sorted sorted).sublist (List.filter_sublist.map _)
  · rw [members]
    simp only [List.mem_map, List.mem_filter, Prod.exists, Prod.mk.injEq, mem_unclosedSlots sorted,
      decide_eq_true_eq]
    constructor
    · rintro ⟨j, v, ⟨⟨found, unclosed⟩, le⟩, rfl, rfl⟩
      exact ⟨le, v, found, unclosed, rfl⟩
    · rintro ⟨le, v, found, unclosed, rfl⟩
      exact ⟨k, v, ⟨⟨found, unclosed⟩, le⟩, rfl, rfl⟩

end

/-- Settles O17: the expiry closes the list, and what follows keeps its closes. -/
theorem deadlineExpiryClosesTheSlotAndAllOlder :
    Obligations.DeadlineExpiryClosesTheSlotAndAllOlder := by
  intro s x slotX closes rest running sorted found unclosedX fresh reached mode rising members
  have event := exec_deadlineExpiry rest running found unclosedX fresh reached
  rw [deadlineExpiry, if_neg mode, expiryCloses_eq sorted rising members] at event
  have unclosed : ∀ p ∈ closes, ∃ v, s.slot? p.1 = some v ∧ v.unclosed = true := by
    rintro ⟨k, r⟩ mem
    obtain ⟨_, v, at_k, isUnclosed, _⟩ := (members k r).1 mem
    exact ⟨v, at_k, isUnclosed⟩
  obtain ⟨-, others, horizon, -, config⟩ := closeAll_closes closes s rising unclosed
  have mem_keys {k : Nat} : k ∈ closes.map (·.1) → k ≤ x := fun mem => by
    obtain ⟨⟨k, r⟩, pair, rfl⟩ := List.mem_map.1 mem
    exact ((members k r).1 pair).1
  have memX := (members x _).2 ⟨le_rfl, slotX, found, unclosedX, rfl⟩
  have last : (closeAll closes s).window.horizon = some x := by
    rw [horizon (List.ne_nil_of_mem memX), ← List.getLast?_map]
    exact rising_last rising (List.mem_map_of_mem memX) fun y => mem_keys
  refine ⟨_, event, by rw [closeAll_eq_foldl], ?_, (settle_slotsKept _).hor x last, fun deadline => ?_⟩
  · intro k slot at_k isUnclosed le
    exact settle_closeAll_closed rising unclosed (settle_slotsKept _)
      ((members k _).2 ⟨le, slot, at_k, isUnclosed, rfl⟩) at_k
  · obtain ⟨unchanged, same⟩ := settle_unless_early (closeAll closes s)
      (by rw [config, deadline]; decide)
    refine ⟨same.trans last, fun k slot at_k _ lt => ?_⟩
    exact unchanged k slot ((others k fun mem => absurd (mem_keys mem) (Nat.not_le.2 lt)).trans at_k)

/-- Settles O18: the mark, and the notice for the oldest unclosed slot. -/
theorem deadlineExpiryInDemandModeMarksOverdue :
    Obligations.DeadlineExpiryInDemandModeMarksOverdue := by
  rintro s u x slot rest running sorted found unclosed fresh reached mode rfl
  have event := exec_deadlineExpiry rest running found unclosed fresh reached
  have modified : tableModify x (fun slot => { slot with overdue := true }) s.window.slots =
      tableInsert x { slot with overdue := true } s.window.slots := by
    rw [tableModify, show tableFind x s.window.slots = some slot from found]
  rw [deadlineExpiry, if_pos mode, markOverdue, modified] at event
  rw [event]
  have oldest := unclosedSlots_first sorted x slot found unclosed
  have waiting : s.overdueWaiting = true ↔ ∃ q ∈ s.reporting.notices, q.cls = .overdue := by
    simp [State.overdueWaiting]
  refine ⟨fun first quiet => ?_, fun other => ?_⟩
  · refine congrArg _ (if_pos ⟨oldest.2 first, ?_⟩)
    rw [Bool.eq_false_iff, Ne, waiting]
    rintro ⟨q, mem, cls⟩
    exact quiet q mem cls
  · refine congrArg _ (if_neg ?_)
    rintro ⟨first, quiet⟩
    rcases other with ⟨k, o, at_k, isUnclosed, lt⟩ | some
    · exact absurd (oldest.1 first k o at_k isUnclosed) (Nat.not_le.2 lt)
    · rw [waiting.2 some] at quiet
      cases quiet

end Sys2Proof.Machine

/-! Frames: a receiver fed with the bytes of a frame, the CRC as a register, and a REQUEST sent byte by
byte. -/

namespace Sys2Proof.Machine

/-! ## Feeding a receiver (R34 to R36) -/

section
variable {low high n : Nat} {r q : Receiver} {b : Byte} {got rest : List Byte}

theorem feed_nothing (taken : r.take low high b = (q, .nothing)) :
    r.feed low high (b :: rest) = q.feed low high rest := by
  rw [Receiver.feed, taken]
  rfl

theorem feed_append (r : Receiver) (a rest : List Byte) : r.feed low high (a ++ rest) =
    (((r.feed low high a).1.feed low high rest).1,
      (r.feed low high a).2 ++ ((r.feed low high a).1.feed low high rest).2) := by
  induction a generalizing r with
  | nil => rfl
  | cons b a ih =>
    rw [List.cons_append, Receiver.feed, ih]
    conv => rhs; rw [Receiver.feed]
    dsimp only
    split
    · rfl
    · rfl

/-- Bytes short of the end of a frame are collected (R35). -/
theorem feed_frame_short (bytes : List Byte) (short : got.length + bytes.length < n + 4) :
    (Receiver.frame n got).feed low high bytes = (.frame n (got ++ bytes), []) := by
  induction bytes generalizing got with
  | nil => rw [List.append_nil]; rfl
  | cons b bytes ih =>
    rw [List.length_cons] at short
    rw [feed_nothing (take_frame_short (by omega)), ih (by simp; omega), List.append_assoc]
    rfl

/-- The last CRC byte makes the frame whole (R36). -/
theorem take_frame_last (full : got.length + 1 = n + 4) : (Receiver.frame n got).take low high b =
    (.hunt, .whole ((got ++ [b]).take n) ((got ++ [b]).drop n)) :=
  if_neg (by simp; omega)

end

/-- The two length bytes (R183). -/
theorem be2_eq (k : Nat) : be2 k = [BitVec.ofNat 8 (k / 256), BitVec.ofNat 8 k] := rfl

theorem lengthBytes_toNat {k : Nat} (bound : k ≤ 65535) :
    (BitVec.ofNat 8 (k / 256)).toNat * 256 + (BitVec.ofNat 8 k).toNat = k := by
  rw [BitVec.toNat_ofNat, BitVec.toNat_ofNat]
  omega

/-- A hunting receiver fed with all of an acceptable frame but its last byte is one byte short of it. -/
theorem feed_frame_prefix {low high : Nat} {kind : Byte} {body : List Byte}
    (least : low ≤ body.length + 1) (greatest : body.length + 1 ≤ high) (bound : high ≤ 65535) :
    ∃ init got last, frameBytes kind body = init ++ [last] ∧
      got ++ [last] = (kind :: body) ++ crcBytes (kind :: body) ∧
      got.length + 1 = body.length + 1 + 4 ∧
      Receiver.hunt.feed low high init = (.frame (body.length + 1) got, []) := by
  obtain ⟨got, last, split⟩ : ∃ got last, (kind :: body) ++ crcBytes (kind :: body) = got ++ [last] :=
    ⟨_, _, (List.dropLast_append_getLast (List.cons_ne_nil kind _)).symm⟩
  have length : got.length + 1 = body.length + 1 + 4 := by
    have := congrArg List.length split
    simpa [crcBytes] using this.symm
  have value := lengthBytes_toNat (greatest.trans bound)
  refine ⟨[markerFirst, markerSecond] ++ be2 (body.length + 1) ++ got, got, last, ?_, split.symm, length,
    ?_⟩
  · rw [frameBytes, List.append_assoc _ _ [last], ← split, List.append_assoc _ (kind :: body)]
  · rw [be2_eq]
    simp only [List.cons_append, List.nil_append, markerFirst, markerSecond]
    rw [feed_nothing (take_hunt_marker rfl), feed_nothing (take_marker_second rfl),
      feed_nothing take_length_first,
      feed_nothing (take_length_accepted (by rw [value]; exact least) (by rw [value]; exact greatest)),
      value, feed_frame_short got (by simp; omega), List.nil_append]

/-- What a whole frame splits into: its content and its CRC bytes. -/
theorem frame_split {kind : Byte} {body got : List Byte} {last : Byte}
    (whole : got ++ [last] = (kind :: body) ++ crcBytes (kind :: body)) :
    (got ++ [last]).take (body.length + 1) = kind :: body ∧
      (got ++ [last]).drop (body.length + 1) = crcBytes (kind :: body) := by
  rw [whole]
  exact ⟨List.take_left' rfl, List.drop_left' rfl⟩

/-! ## The CRC (R183) -/

theorem reverse_polynomial : (0x04C11DB7#32).reverse = 0xEDB88320#32 := by
  apply BitVec.eq_of_getLsbD_eq
  intro i hi
  rw [BitVec.getLsbD_reverse]
  interval_cases i <;> rfl

/-- The shift toward the least significant end, with the reflected polynomial. -/
theorem crcShift_unique {shift : BitVec 32 → BitVec 32}
    (spec : ∀ x, shift x =
      if x.getLsbD 0 then (x >>> 1) ^^^ (0x04C11DB7#32).reverse else x >>> 1) : shift = crcShift := by
  funext x
  rw [spec, reverse_polynomial]
  rfl

theorem toNat_append_byte {w : Nat} (x : BitVec w) (y : BitVec 8) :
    (x ++ y).toNat = x.toNat * 256 + y.toNat := by
  rw [BitVec.toNat_append, ← Nat.shiftLeft_add_eq_or_of_lt y.isLt, Nat.shiftLeft_eq]

/-- The register goes out least significant byte first. -/
theorem crcBytes_eq (bytes : List Byte) : ∃ b0 b1 b2 b3 : Byte,
    crcBytes bytes = [b0, b1, b2, b3] ∧ b3 ++ b2 ++ b1 ++ b0 = crc32 bytes := by
  refine ⟨_, _, _, _, rfl, ?_⟩
  generalize crc32 bytes = c
  apply BitVec.eq_of_toNat_eq
  simp only [toNat_append_byte, BitVec.toNat_ofNat]
  have := c.isLt
  omega

theorem crcBytes_digits :
    crcBytes [0x31, 0x32, 0x33, 0x34, 0x35, 0x36, 0x37, 0x38, 0x39] = [0x26, 0x39, 0xF4, 0xCB] := by
  have register : crc32 [0x31, 0x32, 0x33, 0x34, 0x35, 0x36, 0x37, 0x38, 0x39] = 0xCBF43926#32 := by
    simp [crc32, crcByte, crcShift]
  rw [crcBytes, register]
  rfl

/-- Settles O19: the bytes before the last one bring the receiver one byte short of the frame, and the last
completes it. -/
theorem receiverRecoversAnyFramedBody : Obligations.ReceiverRecoversAnyFramedBody := by
  refine ⟨fun low high kind body least greatest bound => ?_, fun kind body bound => ?_,
    fun bytes shift register spec runs => ?_, crcBytes_digits⟩
  · obtain ⟨init, got, last, bytes, whole, length, fed⟩ := feed_frame_prefix (kind := kind) least greatest bound
    obtain ⟨content, crc⟩ := frame_split whole
    rw [bytes, feed_append, fed]
    simp only [Receiver.feed, take_frame_last length, content, crc]
    rfl
  · refine ⟨_, _, lengthBytes_toNat bound, ?_⟩
    rw [frameBytes, be2_eq]
    rfl
  · obtain ⟨b0, b1, b2, b3, split, joined⟩ := crcBytes_eq bytes
    refine ⟨b0, b1, b2, b3, split, ?_⟩
    rw [joined, runs, crcShift_unique spec]
    rfl

/-! ## A REQUEST sent byte by byte (R156 to R158) -/

theorem runCommands_append (a rest : List Instr) {s t : State} (first : runCommands a s = .next t) :
    runCommands (a ++ rest) s = runCommands rest t := by
  induction a generalizing s with
  | nil => cases first; rfl
  | cons c a ih =>
    rw [runCommands] at first
    rw [List.cons_append, runCommands]
    cases h : exec c s with
    | next u => rw [h] at first; exact ih first
    | fault r => rw [h] at first; cases first
    | refused r => rw [h] at first; cases first

/-- Bytes that bring about nothing move the receiver of the Command Link alone. -/
theorem runCommands_clBytes {bytes : List Byte} {s : State} {r : Receiver} (rest : s.AtRest)
    (fed : s.command.receiver.feed 3 65535 bytes = (r, [])) :
    runCommands (bytes.map Instr.clByte) s =
      .next { s with command := { s.command with receiver := r } } := by
  induction bytes generalizing s with
  | nil => cases fed; rfl
  | cons b bytes ih =>
    have silent : (s.command.receiver.take 3 65535 b).2 = .nothing := by
      by_contra loud
      have := congrArg Prod.snd fed
      rw [Receiver.feed] at this
      simp [loud] at this
    have taken : s.command.receiver.take 3 65535 b = ((s.command.receiver.take 3 65535 b).1, .nothing) :=
      Prod.ext rfl silent
    rw [feed_nothing taken] at fed
    rw [List.map_cons, runCommands, exec_clByte_unfinished rest rfl taken (by simp)]
    exact ih rest fed

/-- The last CRC byte of a frame on the Command Link completes it (R156, log 14). -/
theorem commandByte_last {s : State} {n : Nat} {got : List Byte} {b : Byte}
    (stands : s.command.receiver = .frame n got) (full : got.length + 1 = n + 4) : commandByte b s =
      completeRequest ((got ++ [b]).take n) ((got ++ [b]).drop n)
        { s with command := { s.command with receiver := .hunt } } := by
  unfold commandByte
  rw [stands, take_frame_last full]

theorem completeRequest_taken {s : State} {code tag : Byte} {fields crc : List Byte}
    (right : crc = crcBytes (kindRequest :: code :: tag :: fields))
    (room : s.command.requests.length < 4) :
    completeRequest (kindRequest :: code :: tag :: fields) crc s =
      { s with command := { s.command with
        requests := s.command.requests ++ [⟨code, tag, fields⟩]
        counters := { s.command.counters with
          requestsTaken := min (s.command.counters.requestsTaken + 1) 4294967295 } } } := by
  rw [completeRequest, if_neg (by simp [right]), if_neg (by simp), takeRequest]
  exact if_pos room

/-- Settles O20: the bytes before the last one move the receiver, and the last completes the REQUEST. -/
theorem framedRequestEntersTheQueue : Obligations.FramedRequestEntersTheQueue := by
  intro s code tag fields rest hunts room bound
  obtain ⟨init, got, last, bytes, whole, length, fed⟩ :=
    feed_frame_prefix (low := 3) (high := 65535) (kind := kindRequest) (body := code :: tag :: fields)
      (by simp) (by simp only [List.length_cons]; omega) le_rfl
  obtain ⟨content, crc⟩ := frame_split whole
  rw [← hunts] at fed
  rw [bytes, List.map_append, runCommands_append _ _ (runCommands_clBytes rest fed)]
  have completes := event_at_rest (s := { s with command := { s.command with
    receiver := .frame ((code :: tag :: fields).length + 1) got } }) rest (commandByte last)
  rw [List.map_singleton, runCommands, show exec (.clByte last) _ = _ from completes]
  show Host.Outcome.next (commandByte last _) = _
  rw [commandByte_last rfl length, content, crc, completeRequest_taken rfl]
  · rw [← hunts]
  · exact room

end Sys2Proof.Machine

/-! Timestamps and instants, latency estimates, and the receipt history. -/

namespace Sys2Proof.Machine

open Config (grainsPerSecond maxSecond)

/-! ## From a timestamp to grains (R4) -/

section
variable {tb s f : Nat}

theorem toGrains_eq (fraction : f < tb) : toGrains tb s f =
    if nearestQuotient (f * 6000000) tb = 6000000 then
      if s + 1 ≤ 4294967295 then some (s + 1, 0) else none
    else some (s, nearestQuotient (f * 6000000) tb) :=
  if_neg (Nat.not_le.2 fraction)

theorem nearestGrain_le (fraction : f < tb) : nearestQuotient (f * 6000000) tb ≤ 6000000 := by
  rw [nearestQuotient, Nat.div_le_iff_le_mul_add_pred (by omega)]
  omega

theorem nearestGrain_carries (fraction : f < tb) : nearestQuotient (f * 6000000) tb = 6000000 ↔
    6000000 * tb ≤ f * 6000000 + tb / 2 := by
  rw [← Nat.le_div_iff_mul_le (by omega)]
  exact ⟨fun eq => eq.ge, fun le => le_antisymm (nearestGrain_le fraction) le⟩

theorem toGrains_none_iff (fraction : f < tb) (second : s ≤ 4294967295) : toGrains tb s f = none ↔
    s = 4294967295 ∧ 6000000 * tb ≤ f * 6000000 + tb / 2 := by
  rw [toGrains_eq fraction, ← nearestGrain_carries fraction]
  split
  · split
    · simp; omega
    · simp; omega
  · simp_all

/-- The grains given are the nearest ones to the timestamp, halves up. -/
theorem toGrains_some (fraction : f < tb) (second : s ≤ 4294967295) {s' g : Nat}
    (given : toGrains tb s f = some (s', g)) : s' ≤ 4294967295 ∧ g < 6000000 ∧
      s' * 6000000 + g = s * 6000000 + nearestQuotient (f * 6000000) tb := by
  have bound := nearestGrain_le fraction
  rw [toGrains_eq fraction] at given
  split at given
  · split at given
    · cases given
      omega
    · cases given
  · cases given
    omega

end

/-! ## From grains to the nearest instant (R5, R7) -/

section
variable {f0 rate : Nat}

/-- The rates of the rate families, each with a period of an even number of grains. -/
theorem rateFamily_cases (member : rate ∈ rateFamily f0) :
    rate ∈ [1, 5, 10, 12, 15, 20, 25, 30, 50, 60, 100, 120] := by
  unfold rateFamily at member
  split at member
  · revert member
    simp only [List.mem_cons, List.not_mem_nil, or_false]
    omega
  · split at member
    · revert member
      simp only [List.mem_cons, List.not_mem_nil, or_false]
      omega
    · cases member

theorem rate_mul_period (member : rate ∈ rateFamily f0) : rate * periodOf rate = 6000000 ∧
    2 * (periodOf rate / 2) = periodOf rate ∧ 0 < periodOf rate ∧ 0 < rate := by
  have cases := rateFamily_cases member
  simp only [List.mem_cons, List.not_mem_nil, or_false] at cases
  rcases cases with rfl | rfl | rfl | rfl | rfl | rfl | rfl | rfl | rfl | rfl | rfl | rfl <;>
    decide

/-- The nearest multiple of an even period lies within half of it, the later one at the half. -/
theorem nearestMultiple_bounds {p : Nat} (even : 2 * (p / 2) = p) (positive : 0 < p) (g : Nat) :
    -((p / 2 : Nat) : Int) ≤ (g : Int) - (nearestQuotient g p : Nat) * p ∧
      (g : Int) - (nearestQuotient g p : Nat) * p < (p / 2 : Nat) := by
  obtain ⟨low, high⟩ := nearestQuotient_bounds g positive
  have : (2 * p * nearestQuotient g p : Int) = 2 * ((nearestQuotient g p : Nat) * p) := by ring
  zify at low high even
  omega

theorem nearestQuotient_le_rate (member : rate ∈ rateFamily f0) {g : Nat} (within : g < 6000000) :
    nearestQuotient g (periodOf rate) ≤ rate ∧
      (nearestQuotient g (periodOf rate) = rate ↔ 6000000 - periodOf rate / 2 ≤ g) := by
  obtain ⟨product, even, positive, -⟩ := rate_mul_period member
  have le : nearestQuotient g (periodOf rate) ≤ rate := by
    rw [nearestQuotient, Nat.div_le_iff_le_mul_add_pred positive, Nat.mul_comm, product]
    omega
  refine ⟨le, ?_⟩
  rw [show nearestQuotient g (periodOf rate) = rate ↔ rate ≤ nearestQuotient g (periodOf rate) from
    ⟨fun eq => eq.ge, fun ge => le_antisymm le ge⟩, nearestQuotient, Nat.le_div_iff_mul_le positive,
    product]
  omega

end

/-- Settles O26: both conversions are nearest quotients, whose carry is refused past the last second. -/
theorem timestampGoesToTheNearestInstant : Obligations.TimestampGoesToTheNearestInstant := by
  intro f0 rate tb s f member positive second
  obtain ⟨product, even, positivePeriod, positiveRate⟩ := rate_mul_period member
  refine ⟨fun outside => if_pos outside, fun fraction => toGrains_none_iff fraction second,
    fun fraction s' g given => ?_, fun g within => ?_⟩
  · obtain ⟨last, range, same⟩ := toGrains_some fraction second given
    obtain ⟨low, high⟩ := nearestQuotient_bounds (f * 6000000) positive
    have grains : 2 * (s' * 6000000 + g) * tb =
        2 * (s * 6000000 * tb) + 2 * tb * nearestQuotient (f * 6000000) tb := by
      rw [same]
      ring
    rw [grains]
    exact ⟨last, range, by omega, by omega⟩
  · obtain ⟨le, carries⟩ := nearestQuotient_le_rate member within
    obtain ⟨low, high⟩ := nearestMultiple_bounds even positivePeriod g
    have instant : nearestInstant rate s g =
        if s = 4294967295 ∧ nearestQuotient g (periodOf rate) = rate then none
        else some (s * rate + nearestQuotient g (periodOf rate),
          (g : Int) - (nearestQuotient g (periodOf rate) : Nat) * periodOf rate) := rfl
    have own : ownGridOffset rate g =
        (g : Int) - (nearestQuotient g (periodOf rate) : Nat) * periodOf rate := rfl
    refine ⟨?_, fun n d given => ?_, ⟨nearestQuotient g (periodOf rate), ?_⟩, ?_⟩
    · rw [instant, ← carries]
      split <;> simp_all
    · rw [instant] at given
      split at given
      · cases given
      · rename_i refused
        cases given
        refine ⟨?_, ?_, low, high⟩
        · have : s * rate + rate ≤ 4294967296 * rate := by nlinarith
          have : s = 4294967295 → nearestQuotient g (periodOf rate) < rate := by omega
          have : s < 4294967295 → s * rate + 2 * rate ≤ 4294967296 * rate := by
            intro lt
            nlinarith
          omega
        · have : ((rate * periodOf rate : Nat) : Int) = 6000000 := by rw [product]; rfl
          push_cast at this ⊢
          linear_combination (s : Int) * this
    · rw [own]
      exact (add_sub_cancel _ _).symm
    · rw [own]
      exact ⟨low, high⟩

/-! ## Latency (R11 to R13) -/

theorem latency_le_lmax {sources : Table Entry} {p : Nat × Entry} (mem : p ∈ sources)
    (awaited : p.2.awaited = true) : p.2.latency ≤ lmax sources := by
  induction sources with
  | nil => cases mem
  | cons q t ih =>
    rw [lmax]
    obtain rfl | later := List.mem_cons.1 mem
    · rw [if_pos awaited]
      exact le_max_left ..
    · have := ih later
      split
      · exact this.trans (le_max_right ..)
      · exact this

theorem lmax_attained (sources : Table Entry) :
    lmax sources = 0 ∨ ∃ p ∈ sources, p.2.awaited = true ∧ p.2.latency = lmax sources := by
  induction sources with
  | nil => exact .inl rfl
  | cons q t ih =>
    have rest : lmax t = lmax (q :: t) → lmax (q :: t) = 0 ∨
        ∃ p ∈ q :: t, p.2.awaited = true ∧ p.2.latency = lmax (q :: t) := fun eq => by
      rw [← eq]
      exact ih.imp_right fun ⟨p, mem, h⟩ => ⟨p, .tail _ mem, h⟩
    by_cases awaited : q.2.awaited = true
    · have eq : lmax (q :: t) = max q.2.latency (lmax t) := if_pos awaited
      rcases le_total q.2.latency (lmax t) with le | ge
      · exact rest (eq.trans (max_eq_right le)).symm
      · exact .inr ⟨q, .head _, awaited, (eq.trans (max_eq_left ge)).symm⟩
    · exact rest (if_neg awaited).symm

theorem awaited_iff (e : Entry) :
    e.awaited = true ↔ e.state = .active ∧ e.options.required = true := by
  simp [Entry.awaited]

/-- Settles O28: the clamp, the decay, the largest estimate by the list, and the table of wait codes. -/
theorem latencyEstimatesMoveAndLmaxIsTheLargest :
    Obligations.LatencyEstimatesMoveAndLmaxIsTheLargest := by
  intro arrival sample estimate sources
  refine ⟨?_, ?_, ?_, fun m _ => ⟨fun le => if_pos le, fun lt => ?_⟩, ?_, ?_, ?_⟩
  · unfold measuredLatency latencyMax; omega
  · unfold measuredLatency latencyMax; omega
  · unfold measuredLatency latencyMax; omega
  · rw [nextLatency, if_neg (Nat.not_le.2 lt)]
    omega
  · intro p mem active required
    exact latency_le_lmax mem ((awaited_iff _).2 ⟨active, required⟩)
  · refine (lmax_attained sources).imp_right ?_
    rintro ⟨p, mem, awaited, eq⟩
    obtain ⟨active, required⟩ := (awaited_iff _).1 awaited
    exact ⟨p, mem, active, required, eq⟩
  · intro code grains mem
    simp only [List.mem_cons, List.not_mem_nil, or_false, Prod.mk.injEq] at mem
    rcases mem with ⟨rfl, rfl⟩ | ⟨rfl, rfl⟩ | ⟨rfl, rfl⟩ | ⟨rfl, rfl⟩ | ⟨rfl, rfl⟩ | ⟨rfl, rfl⟩ |
      ⟨rfl, rfl⟩ | ⟨rfl, rfl⟩ <;> rfl

/-! ## The receipt history (R57) -/

theorem marked_iff {r : Receipt} {newest : Nat} (some : r.newest = some newest) (y : Nat) :
    r.marked y = true ↔ y ≤ newest ∧ r.marks.getLsbD (newest - y) = true := by
  simp [Receipt.marked, some]

theorem getLsbD_one (k : Nat) : (1#64).getLsbD k = true ↔ k = 0 := by
  rw [BitVec.getLsbD_one]
  simp

theorem getLsbD_shiftLeft_iff (marks : BitVec 64) (m k : Nat) :
    (marks <<< m).getLsbD k = true ↔ k < 64 ∧ m ≤ k ∧ marks.getLsbD (k - m) = true := by
  simp [BitVec.getLsbD_shiftLeft, and_assoc]

/-- Settles O30: the marks are bits counted down from the newest instant, and move with it. -/
theorem receiptHistoryKeepsItsSpan : Obligations.ReceiptHistoryKeepsItsSpan := by
  intro r x y
  refine ⟨fun empty => ?_, fun newest some above => ?_, fun newest some within near => ?_,
    fun newest some far => ?_⟩
  · have entered : r.enter x = ⟨Option.some x, 1#64⟩ := by
      rw [Receipt.enter, empty]
      rfl
    rw [entered, marked_iff rfl]
    refine ⟨rfl, ?_⟩
    dsimp only
    rw [getLsbD_one]
    omega
  · have entered : r.enter x = ⟨Option.some x,
        if x - newest < 64 then (r.marks <<< (x - newest)) ||| 1#64 else 1#64⟩ := by
      rw [Receipt.enter, some]
      exact if_pos above
    rw [entered, marked_iff rfl, marked_iff some]
    refine ⟨rfl, ?_⟩
    dsimp only
    split
    · rw [BitVec.getLsbD_or, Bool.or_eq_true, getLsbD_shiftLeft_iff, getLsbD_one]
      constructor
      · rintro ⟨le, ⟨short, old, marked⟩ | same⟩
        · rw [show x - y - (x - newest) = newest - y by omega] at marked
          exact .inr ⟨⟨by omega, marked⟩, by omega⟩
        · exact .inl (by omega)
      · rintro (rfl | ⟨⟨le, marked⟩, short⟩)
        · exact ⟨le_rfl, .inr (by omega)⟩
        · rw [show newest - y = x - y - (x - newest) by omega] at marked
          exact ⟨by omega, .inl ⟨by omega, by omega, marked⟩⟩
    · rw [getLsbD_one]
      omega
  · have entered : r.enter x = ⟨Option.some newest, r.marks ||| (1#64 <<< (newest - x))⟩ := by
      rw [Receipt.enter, some]
      exact (if_neg (by omega)).trans (if_pos (by omega))
    rw [entered, marked_iff rfl, marked_iff some]
    refine ⟨rfl, ?_⟩
    dsimp only
    rw [BitVec.getLsbD_or, Bool.or_eq_true, getLsbD_shiftLeft_iff, getLsbD_one]
    constructor
    · rintro ⟨le, marked | ⟨-, old, same⟩⟩
      · exact .inr ⟨le, marked⟩
      · exact .inl (by omega)
    · rintro (rfl | ⟨le, marked⟩)
      · exact ⟨within, .inr ⟨by omega, le_rfl, by omega⟩⟩
      · exact ⟨le, .inl marked⟩
  · rw [Receipt.enter, some]
    exact (if_neg (by omega)).trans (if_neg (by omega))

end Sys2Proof.Machine

/-! The grants of the Ingest Arbiter, and the last byte of an ingest frame. -/

namespace Sys2Proof.Machine

section
variable {s t : State} {l m : LinkId} {f : IngestFrame} {rest : List IngestFrame}

/-! ## The recording of an unknown frame (R46 to R48) -/

theorem recordUnknown_links (f : IngestFrame) (s : State) : (recordUnknown f s).links =
    (s.countLink f.link fun c => { c with unknownFrames := bump c.unknownFrames }).links := by
  by_cases logged : ∃ e ∈ s.ingest.log, e.id = f.id
  · rw [recordUnknown_logged logged]
  · rw [recordUnknown_unlogged fun e mem eq => logged ⟨e, mem, eq⟩, raiseNotice_links]

/-- The recording changes the Unknown Source Log by the log alone, and nothing else of the ingest side but
the link counters. -/
theorem recordUnknown_ingest (f : IngestFrame) (s : State) : (recordUnknown f s).ingest =
    { s.ingest with log := if ∃ e ∈ s.ingest.log, e.id = f.id then countLogged f.id s.ingest.log
                           else logRoom s.ingest.log ++ [⟨f.id, f.link, f.stampSecond, 1⟩] } := by
  by_cases logged : ∃ e ∈ s.ingest.log, e.id = f.id
  · rw [recordUnknown_logged logged, if_pos logged]
  · rw [recordUnknown_unlogged fun e mem eq => logged ⟨e, mem, eq⟩, raiseNotice_ingest,
      if_neg logged]

theorem link_recordUnknown (f : IngestFrame) (s : State) (m : LinkId) :
    (recordUnknown f s).link m = { s.link m with counters :=
      if m = f.link then { (s.link m).counters with
        unknownFrames := bump (s.link m).counters.unknownFrames } else (s.link m).counters } := by
  rw [State.link, recordUnknown_links, ← State.link]
  obtain rfl | other := eq_or_ne m f.link
  · rw [if_pos rfl]
    exact State.link_modifyLink_self ..
  · rw [if_neg other]
    exact State.link_modifyLink_ne s other _

/-! ## Passed-over counts (R44) -/

theorem State.modifyLink_of_fixed {g : IngestLink → IngestLink} (fixed : g (s.link l) = s.link l) :
    s.modifyLink l g = s := by
  rw [State.modifyLink, fixed]
  cases l <;> rfl

/-- A link at a grant to the link chosen. -/
def IngestLink.passed (chosen l : LinkId) (k : IngestLink) : IngestLink :=
  if l = chosen then { k with passedOver := 0 }
  else if k.fifo = [] then k
  else { k with passedOver := min (k.passedOver + 1) Config.passedOverMax }

theorem passOver_eq (chosen : LinkId) (s : State) (l : LinkId) :
    passOver chosen s l = s.modifyLink l (IngestLink.passed chosen l) := by
  unfold passOver
  split
  next self => exact State.modifyLink_congr (if_pos self).symm
  next other =>
    split
    next waits =>
      exact State.modifyLink_congr
        (((if_neg other).trans (if_neg ((s.waiting_iff l).1 waits))).symm)
    next empty =>
      have none : (s.link l).fifo = [] :=
        Decidable.by_contra fun some => empty ((s.waiting_iff l).2 some)
      refine (State.modifyLink_of_fixed ?_).symm
      rw [IngestLink.passed, if_neg other, if_pos none]

theorem link_passOverAll (chosen : LinkId) (s : State) (m : LinkId) :
    (LinkId.all.foldl (passOver chosen) s).link m = (s.link m).passed chosen m := by
  show (passOver chosen (passOver chosen (passOver chosen (passOver chosen s .il0) .il1) .il2) .il3).link m
    = _
  simp only [passOver_eq]
  cases m <;> rfl

theorem IngestLink.passed_fifo (chosen l : LinkId) (k : IngestLink) :
    (k.passed chosen l).fifo = k.fifo := by
  unfold IngestLink.passed
  split
  · rfl
  · split <;> rfl

/-! ## One grant (R41, R44) -/

/-- The part after a grant, before the granted frame is looked up. -/
def grantLink (l : LinkId) (rest : List IngestFrame) (s : State) : State :=
  let t := (LinkId.all.foldl (passOver l) s).modifyLink l fun k =>
    { k with fifo := rest, counters := { k.counters with granted := bump k.counters.granted } }
  { t with ingest := { t.ingest with lastGranted := l } }

theorem grantLink_ingest : (grantLink l rest s).ingest = { s.ingest with lastGranted := l } := by
  simp [grantLink]

theorem grantLink_knownSource (id : Word16) :
    (grantLink l rest s).knownSource id = s.knownSource id := by
  unfold State.knownSource
  rw [show (grantLink l rest s).sources = s.sources by simp [grantLink]]

theorem grantTo_known {i : Nat} (known : s.knownSource f.id = some i) : grantTo l f rest s =
    { grantLink l rest s with ingest :=
      { (grantLink l rest s).ingest with dispatch := some ⟨f, i⟩ } } := by
  show (match (grantLink l rest s).knownSource f.id with
    | some i => _
    | none => recordUnknown f (grantLink l rest s)) = _
  rw [grantLink_knownSource, known]
  rfl

theorem grantTo_unknown (unknown : s.knownSource f.id = none) :
    grantTo l f rest s = recordUnknown f (grantLink l rest s) := by
  show (match (grantLink l rest s).knownSource f.id with
    | some i => _
    | none => recordUnknown f (grantLink l rest s)) = _
  rw [grantLink_knownSource, unknown]

theorem link_grantLink (m : LinkId) : (grantLink l rest s).link m =
    ((LinkId.all.foldl (passOver l) s).modifyLink l fun k =>
      { k with fifo := rest, counters := { k.counters with granted := bump k.counters.granted } }).link
      m := rfl

theorem link_grantLink_self : (grantLink l rest s).link l = { s.link l with
    fifo := rest, passedOver := 0, counters :=
      { (s.link l).counters with granted := bump (s.link l).counters.granted } } := by
  rw [link_grantLink, State.link_modifyLink_self, link_passOverAll, IngestLink.passed, if_pos rfl]

theorem link_grantLink_ne (other : m ≠ l) :
    (grantLink l rest s).link m = (s.link m).passed l m := by
  rw [link_grantLink, State.link_modifyLink_ne _ other, link_passOverAll]

/-- What a grant makes of each link: its FIFO, its passed-over count and its count of grants. -/
theorem link_grantTo (l m : LinkId) (f : IngestFrame) (rest : List IngestFrame) (s : State) :
    ((grantTo l f rest s).link m).fifo = ((grantLink l rest s).link m).fifo ∧
    ((grantTo l f rest s).link m).passedOver = ((grantLink l rest s).link m).passedOver ∧
    ((grantTo l f rest s).link m).counters.granted =
      ((grantLink l rest s).link m).counters.granted := by
  cases known : s.knownSource f.id with
  | some i =>
    rw [grantTo_known known]
    exact ⟨rfl, rfl, rfl⟩
  | none =>
    rw [grantTo_unknown known, link_recordUnknown]
    refine ⟨rfl, rfl, ?_⟩
    dsimp only
    split <;> rfl

theorem grantTo_fifo (l m : LinkId) (f : IngestFrame) (rest : List IngestFrame) (s : State) :
    ((grantTo l f rest s).link m).fifo = if m = l then rest else (s.link m).fifo := by
  rw [(link_grantTo l m f rest s).1]
  split
  next self => rw [self, link_grantLink_self]
  next other => rw [link_grantLink_ne other, IngestLink.passed_fifo]

/-- A grant takes one frame. -/
theorem waitingFrames_grantTo (head : (s.link l).fifo = f :: rest) :
    s.waitingFrames = (grantTo l f rest s).waitingFrames + 1 := by
  simp only [State.waitingFrames, grantTo_fifo]
  cases l <;> simp only [head, List.length_cons, reduceCtorEq, if_true, if_false] <;> omega

/-! ## Grants (R41, R45) -/

theorem grants_busy (fuel : Nat) (busy : s.ingest.dispatch ≠ none) : grants fuel s = s := by
  cases fuel with
  | zero => rfl
  | succ fuel => exact if_pos (Option.isSome_iff_ne_none.2 busy)

theorem arbitrate_idle (free : s.ingest.dispatch = none) (chosen : chooseLink s = some l)
    (head : (s.link l).fifo = f :: rest) :
    arbitrate s = grants (grantTo l f rest s).waitingFrames (grantTo l f rest s) := by
  rw [arbitrate, waitingFrames_grantTo head, grants, free, if_neg (by decide), chosen]
  dsimp only
  rw [head]

theorem arbitrate_empty (empty : ∀ m, (s.link m).fifo = []) : arbitrate s = s := by
  have none : s.waitingFrames = 0 := by simp [State.waitingFrames, empty]
  rw [arbitrate, none, grants]

/-- With a link chosen, a frame of a known source is in dispatch after its grant. -/
theorem arbitrate_known {i : Nat} (free : s.ingest.dispatch = none) (chosen : chooseLink s = some l)
    (head : (s.link l).fifo = f :: rest) (known : s.knownSource f.id = some i) :
    arbitrate s = grantTo l f rest s := by
  rw [arbitrate_idle free chosen head, grants_busy]
  rw [grantTo_known known]
  exact Option.some_ne_none _

theorem grantTo_unknown_dispatch (unknown : s.knownSource f.id = none) :
    (grantTo l f rest s).ingest.dispatch = s.ingest.dispatch := by
  rw [grantTo_unknown unknown, recordUnknown_ingest, grantLink_ingest]

theorem endDispatch_of_free (free : s.ingest.dispatch = none) : endDispatch s = arbitrate s := by
  unfold endDispatch
  rw [← free]

end

/-- Settles O24: one grant takes one frame, so that the fuel of the grants is that of the frames left. -/
theorem grantsFollowWhileTheDispatcherIsFree : Obligations.GrantsFollowWhileTheDispatcherIsFree := by
  rintro s l f rest u rfl
  refine ⟨fun empty => arbitrate_empty empty, grants_busy _, fun free => (endDispatch_of_free free).symm,
    fun head => ⟨fun chosen => ⟨fun i known => arbitrate_known rfl chosen head known,
      fun unknown => ?_⟩, ?_⟩⟩
  · have free := grantTo_unknown_dispatch (l := l) (rest := rest)
      (s := { s with ingest := { s.ingest with dispatch := none } }) unknown
    rw [endDispatch_of_free free]
    exact arbitrate_idle rfl chosen head
  · rintro t rfl
    obtain ⟨fifo, passedOver, granted⟩ := link_grantTo l l f rest s
    rw [link_grantLink_self] at fifo passedOver granted
    refine ⟨?_, fifo, passedOver, granted, fun m other => ?_, fun i known => ?_, fun unknown => ?_⟩
    · cases known : s.knownSource f.id with
      | some i =>
        rw [grantTo_known known, grantLink_ingest]
      | none =>
        rw [grantTo_unknown known, recordUnknown_ingest, grantLink_ingest]
    · obtain ⟨fifo, passedOver, -⟩ := link_grantTo l m f rest s
      rw [link_grantLink_ne other] at fifo passedOver
      refine ⟨fifo.trans (IngestLink.passed_fifo ..), passedOver.trans ?_⟩
      rw [IngestLink.passed, if_neg other]
      split <;> rfl
    · rw [grantTo_known known]
    · refine ⟨grantTo_unknown_dispatch unknown, ?_⟩
      rw [grantTo_unknown unknown, recordUnknown_ingest, recordUnknown_ingest, grantLink_ingest]

end Sys2Proof.Machine

/-! The last byte of an ingest frame (R36 to R39): its checks, the filter, the FIFO, and the grant that an
idle dispatcher makes at once. -/

namespace Sys2Proof.Machine

section
variable {s t : State} {l : LinkId} {b : Byte} {c : Instr} {n : Nat} {got : List Byte}

/-- INGEST_BYTE and INGEST_FRAME complete the frame with its last byte (log 14). -/
theorem exec_lastIngestByte (atRest : s.AtRest) (event : c = .ingestFrame l b ∨ c = .ingestByte l b)
    (on : (s.link l).on = true) (stands : (s.link l).receiver = .frame n got)
    (full : got.length + 1 = n + 4) : exec c s = .next (completeFrame l ((got ++ [b]).take n)
      ((got ++ [b]).drop n) (s.modifyLink l fun k => { k with receiver := .hunt })) := by
  have byte : ingestByte l b s = completeFrame l ((got ++ [b]).take n) ((got ++ [b]).drop n)
      (s.modifyLink l fun k => { k with receiver := .hunt }) := by
    rw [ingestByte, if_pos on, stands, take_frame_last full]
  have last : ingestLastByte l b s = ingestByte l b s := by
    rw [ingestLastByte, on, stands, Receiver.oneByteShort]
    exact if_pos (by simpa using full.ge)
  rw [← byte]
  obtain rfl | rfl := event
  · exact (event_at_rest atRest _).trans (congrArg _ last)
  · exact event_at_rest atRest _

/-! ## The checks (R36 to R38) -/

variable {kind b0 b1 : Byte} {rest crc : List Byte} {f : IngestFrame}

theorem completeFrame_wrongCrc {content : List Byte} (wrong : crc ≠ crcBytes content) :
    completeFrame l content crc t = t.countLink l fun c => { c with crcError := bump c.crcError } :=
  if_pos wrong

theorem completeFrame_otherKind (right : crc = crcBytes (kind :: rest)) (notMeasurement : kind ≠ 0x01#8)
    (notDescription : kind ≠ 0x02#8) : completeFrame l (kind :: rest) crc t =
      t.countLink l fun c => { c with kindError := bump c.kindError } := by
  have none : fieldKind ((kind :: rest).headD 0) = none :=
    (if_neg notMeasurement).trans (if_neg notDescription)
  rw [completeFrame, if_neg (not_not.2 right), none]

theorem fieldKind_eq (field : kind = 0x01#8 ∨ kind = 0x02#8) : fieldKind kind =
    some (if kind = 0x01#8 then .measurement else .description) := by
  obtain rfl | rfl := field <;> rfl

/-- The identifier is the first field of the body (R37). -/
theorem identifier_eq (id : f.id.toNat = b0.toNat * 256 + b1.toNat) :
    BitVec.ofNat 16 (fieldAt (b0 :: b1 :: rest) 0 2) = f.id := by
  apply BitVec.eq_of_toNat_eq
  rw [show fieldAt (b0 :: b1 :: rest) 0 2 = beNat [b0, b1] from rfl, beNat_pair, ← id,
    BitVec.toNat_ofNat, Nat.mod_eq_of_lt f.id.isLt]

/-- A whole frame of a FIELD kind is offered where it passes the filter. -/
theorem completeFrame_field (right : crc = crcBytes (kind :: b0 :: b1 :: rest))
    (field : kind = 0x01#8 ∨ kind = 0x02#8) (link : f.link = l)
    (kindIs : f.kind = if kind = 0x01#8 then .measurement else .description)
    (id : f.id.toNat = b0.toNat * 256 + b1.toNat) (body : f.body = b0 :: b1 :: rest)
    (second : f.stampSecond = t.time.second) (fraction : f.stampFraction = t.time.fraction) :
    completeFrame l (kind :: b0 :: b1 :: rest) crc t =
      if (t.link l).passes f.id then offerFrame f t
      else t.countLink l fun c => { c with filtered := bump c.filtered } := by
  rw [completeFrame, if_neg (not_not.2 right)]
  simp only [List.headD_cons, List.drop_succ_cons, List.drop_zero, fieldKind_eq field,
    identifier_eq id]
  rw [← kindIs, ← body, ← second, ← fraction, ← link]

/-! ## A frame granted at once (R41, R44) -/

theorem chooseLink_sole (waits : (t.link l).fifo ≠ []) (others : ∀ m, m ≠ l → (t.link m).fifo = []) :
    chooseLink t = some l := by
  cases chosen : chooseLink t with
  | none => exact absurd ((chooseLink_eq_none t).1 chosen l) waits
  | some m =>
    have waiting := (t.waiting_iff m).1 (waiting_of_chooseLink chosen)
    rw [show m = l from Decidable.by_contra fun other => waiting (others m other)]

theorem foldl_passOver_empty {links : List LinkId} (others : l ∉ links)
    (empty : ∀ m, m ≠ l → (t.link m).fifo = []) : links.foldl (passOver l) t = t := by
  induction links with
  | nil => rfl
  | cons m links ih =>
    obtain ⟨other, others⟩ := not_or.1 (mt List.mem_cons.2 others)
    have passed : passOver l t m = t := by
      rw [passOver_eq]
      refine State.modifyLink_of_fixed ?_
      rw [IngestLink.passed, if_neg (Ne.symm other), if_pos (empty m (Ne.symm other))]
    rw [List.foldl_cons, passed, ih others]

theorem LinkId.all_split (l : LinkId) : ∃ before after, LinkId.all = before ++ l :: after ∧
    l ∉ before ∧ l ∉ after := by
  cases l
  · exact ⟨[], [.il1, .il2, .il3], rfl, by decide, by decide⟩
  · exact ⟨[.il0], [.il2, .il3], rfl, by decide, by decide⟩
  · exact ⟨[.il0, .il1], [.il3], rfl, by decide, by decide⟩
  · exact ⟨[.il0, .il1, .il2], [], rfl, by decide, by decide⟩

theorem passOverAll_sole (empty : ∀ m, m ≠ l → (t.link m).fifo = []) :
    LinkId.all.foldl (passOver l) t = t.modifyLink l fun k => { k with passedOver := 0 } := by
  obtain ⟨before, after, split, notBefore, notAfter⟩ := LinkId.all_split l
  rw [split, List.foldl_append, foldl_passOver_empty notBefore empty, List.foldl_cons, passOver,
    if_pos rfl, foldl_passOver_empty notAfter]
  intro m other
  rw [State.link_modifyLink_ne t other]
  exact empty m other

theorem grantLink_sole {fifo : List IngestFrame} (empty : ∀ m, m ≠ l → (t.link m).fifo = []) :
    grantLink l fifo t =
      { t.modifyLink l (fun k => { k with fifo := fifo, passedOver := 0, counters :=
          { k.counters with granted := bump k.counters.granted } }) with
        ingest := { t.ingest with lastGranted := l } } := by
  rw [grantLink, passOverAll_sole empty]
  dsimp only
  rw [State.modifyLink_modifyLink]
  rfl

/-- A frame that finds every FIFO empty waits alone. -/
theorem offerFrame_empty (empty : ∀ m, (t.link m).fifo = []) : offerFrame f t =
    arbitrate (t.modifyLink f.link fun k => { k with fifo := [f], counters :=
      { k.counters with enqueued := bump k.counters.enqueued } }) := by
  rw [offerFrame, if_pos (by rw [empty]; decide)]
  refine congrArg arbitrate (State.modifyLink_congr ?_)
  rw [empty, List.nil_append]

/-- The part with frame `f` of link `l` granted, as it stood with every FIFO empty. -/
def grantedAtOnce (l : LinkId) (t : State) : State :=
  { t.modifyLink l (fun k => { k with passedOver := 0, counters := { k.counters with
      enqueued := bump k.counters.enqueued, granted := bump k.counters.granted } }) with
    ingest := { t.ingest with lastGranted := l } }

theorem offerFrame_grant (link : f.link = l) (empty : ∀ m, (t.link m).fifo = [])
    (free : t.ingest.dispatch = none) : offerFrame f t = match t.knownSource f.id with
      | some i => { grantedAtOnce l t with ingest :=
          { t.ingest with lastGranted := l, dispatch := some ⟨f, i⟩ } }
      | none => recordUnknown f (grantedAtOnce l t) := by
  subst link
  rw [offerFrame_empty empty]
  generalize enqueued : (t.modifyLink f.link fun k => { k with fifo := [f], counters :=
    { k.counters with enqueued := bump k.counters.enqueued } }) = u
  have head : (u.link f.link).fifo = [f] := by
    rw [← enqueued, State.link_modifyLink_self]
  have others : ∀ m, m ≠ f.link → (u.link m).fifo = [] := by
    intro m other
    rw [← enqueued, State.link_modifyLink_ne t other]
    exact empty m
  have chosen := chooseLink_sole (by rw [head]; exact List.cons_ne_nil _ _) others
  have granted : grantLink f.link [] u = grantedAtOnce f.link t := by
    rw [grantLink_sole others, ← enqueued, State.modifyLink_modifyLink, grantedAtOnce]
    have same := State.modifyLink_congr (s := t) (l := f.link)
      (g := fun k => { k with fifo := [], passedOver := 0, counters := { k.counters with
        enqueued := bump k.counters.enqueued, granted := bump k.counters.granted } })
      (h := fun k => { k with passedOver := 0, counters := { k.counters with
        enqueued := bump k.counters.enqueued, granted := bump k.counters.granted } })
      (by dsimp only; rw [← empty f.link])
    rw [← same]
    rfl
  have freeU : u.ingest.dispatch = none := by rw [← enqueued]; exact free
  have same : u.knownSource f.id = t.knownSource f.id := by rw [← enqueued]; rfl
  cases known : t.knownSource f.id with
  | some i =>
    rw [arbitrate_known freeU chosen head (same.trans known), grantTo_known (same.trans known), granted]
    rfl
  | none =>
    have emptied (m : LinkId) : ((grantTo f.link f [] u).link m).fifo = [] := by
      rw [grantTo_fifo]
      split
      · rfl
      next other => exact others m other
    have none : (grantTo f.link f [] u).waitingFrames = 0 := by simp [State.waitingFrames, emptied]
    rw [arbitrate_idle freeU chosen head, none, grants, grantTo_unknown (same.trans known), granted]

end

/-- Settles O22: the last byte completes the frame, and each check turns it away or lets it on. -/
theorem wholeFrameIsCheckedFilteredAndQueued : Obligations.WholeFrameIsCheckedFilteredAndQueued := by
  intro s t l b c n got content crc kind b0 b1 rest f atRest event on stands full contentIs crcIs split
    tIs link kindIs id body second fraction
  have completes := exec_lastIngestByte atRest event on stands full
  rw [← contentIs, ← crcIs, ← tIs, split] at completes
  rw [completes, split]
  have time : t.time = s.time := by rw [tIs, State.modifyLink_time]
  have self : t.link l = { s.link l with receiver := .hunt } := by
    rw [tIs, State.link_modifyLink_self]
  have fifo (m : LinkId) : (t.link m).fifo = (s.link m).fifo := by
    obtain rfl | other := eq_or_ne m l
    · rw [self]
    · rw [tIs, State.link_modifyLink_ne s other]
  have ingest : t.ingest = s.ingest := by rw [tIs, State.modifyLink_ingest]
  refine ⟨fun wrong => congrArg _ (completeFrame_wrongCrc wrong),
    fun right notMeasurement notDescription =>
      congrArg _ (completeFrame_otherKind right notMeasurement notDescription),
    fun right field => ?_⟩
  rw [completeFrame_field right field link kindIs id body (by rw [time, second])
    (by rw [time, fraction])]
  have passes : (t.link l).passes f.id = true ↔ ∀ i, i < 16 →
      (s.link l).filterMask.getLsbD i = true → f.id.getLsbD i = (s.link l).filterMatch.getLsbD i := by
    rw [IngestLink.passes_iff, self]
  refine ⟨?_, fun matched => ?_⟩
  · rintro ⟨i, lt, masked, differs⟩
    rw [if_neg fun h => differs (passes.1 h i lt masked)]
    rfl
  · rw [if_pos (passes.2 matched)]
    subst link
    refine ⟨fun room busy => ?_, fun fullFifo set => ?_, fun fullFifo clear => ?_, fun i free empty known => ?_,
      fun free empty unknown => ?_⟩
    · rw [offerFrame, if_pos (by rw [fifo]; exact room)]
      exact congrArg _ (grants_busy _ (by rw [State.modifyLink_ingest, ingest]; exact busy))
    · rw [offerFrame, if_neg (by rw [fifo]; exact Nat.not_lt.2 fullFifo), congestion, if_pos]
      · rfl
      · rw [tIs]; exact set
    · rw [offerFrame, if_neg (by rw [fifo]; exact Nat.not_lt.2 fullFifo), congestion, if_neg]
      · rfl
      · rw [tIs]; exact Bool.eq_false_iff.1 clear
    all_goals
      have source : t.knownSource f.id = s.knownSource f.id := by rw [tIs]; rfl
      rw [offerFrame_grant rfl (fun m => (fifo m).trans (empty m)) (by rw [ingest]; exact free), source]
    · rw [known, ← ingest]
      rfl
    · rw [unknown, ← ingest]
      rfl

end Sys2Proof.Machine

/-! The placement step: the checks of a sample in their order (R69, R76 to R87), and what a refusal counts. -/

namespace Sys2Proof.Machine

section
variable {s : State} {d : Dispatch} {e : Entry} {f : IngestFrame} {i : Nat}

/-! ## The step, by what its checks answer -/

theorem fits_iff : e.fits f = true ↔ e.state ≠ .unused ∧ e.state ≠ .retiring ∧ e.id = f.id := by
  simp [Entry.fits, and_assoc]

theorem exec_placementStep (atRest : s.AtRest) (dispatch : s.ingest.dispatch = some d)
    (kind : d.frame.kind = .measurement) : exec .placementStep s =
      .next ((s.opensSlot d).elim (endDispatch (placeSample d s)) fun n =>
        expireOpened n (endDispatch (placeSample d s))) := by
  show event placementStep s = _
  rw [event_at_rest atRest, placementStep, dispatch]
  dsimp only
  rw [if_pos kind]
  cases s.opensSlot d <;> rfl

theorem exec_placementStep_unfit (atRest : s.AtRest) (dispatch : s.ingest.dispatch = some d)
    (kind : d.frame.kind = .measurement) (unfit : ¬(s.entry d.source).fits d.frame = true) :
    exec .placementStep s = .next (endDispatch (recordUnknown d.frame s)) := by
  have opens : s.opensSlot d = none := if_neg unfit
  rw [exec_placementStep atRest dispatch kind, opens, placeSample]
  exact congrArg (fun t => Host.Outcome.next (endDispatch t)) (if_neg unfit)

theorem exec_placementStep_refused {r : SampleRefusal} (atRest : s.AtRest)
    (dispatch : s.ingest.dispatch = some d) (kind : d.frame.kind = .measurement)
    (fits : (s.entry d.source).fits d.frame = true)
    (refused : placementChecks s d.source (s.entry d.source) d.frame = .error r) :
    exec .placementStep s = .next (endDispatch (refuseSample d.source r s)) := by
  have opens : s.opensSlot d = none := by
    rw [State.opensSlot, if_pos fits, refused]
  rw [exec_placementStep atRest dispatch kind, opens, placeSample, if_pos fits, refused]
  rfl

/-! ## The first five checks (R77 to R81) -/

theorem samplePoint_none {rate : Nat} {h : SourceShape} {b : List Byte}
    (bad : 15 < fieldAt b 9 1 ∨ toGrains h.timeBase (fieldAt b 2 4) (fieldAt b 6 3) = none ∨
      ∃ s' g, toGrains h.timeBase (fieldAt b 2 4) (fieldAt b 6 3) = some (s', g) ∧
        nearestInstant rate s' g = none) : samplePoint rate h b = none := by
  unfold samplePoint bodyQuality bodySecond bodyFraction
  split
  · rfl
  next quality =>
    obtain late | fraction | ⟨s', g, grains, instant⟩ := bad
    · exact absurd late quality
    · rw [fraction]
    · rw [grains]
      dsimp only
      rw [instant]

theorem samplePoint_some {rate : Nat} {h : SourceShape} {b : List Byte} {n s' g : Nat} {δ : Int}
    (quality : fieldAt b 9 1 ≤ 15)
    (grains : toGrains h.timeBase (fieldAt b 2 4) (fieldAt b 6 3) = some (s', g))
    (instant : nearestInstant rate s' g = some (n, δ)) :
    samplePoint rate h b = some (⟨n, δ, s' * 6000000 + g⟩, g) := by
  unfold samplePoint bodyQuality bodySecond bodyFraction
  rw [if_neg (Nat.not_lt.2 quality), grains]
  dsimp only
  rw [instant]
  rfl

section
variable (notSuspended : e.state ≠ .suspended)
include notSuspended

theorem placementChecks_wrongLink (link : e.links.get f.link = false) :
    placementChecks s i e f = .error .wrongLink := by
  rw [placementChecks, if_neg notSuspended, link]
  rfl

variable (link : e.links.get f.link = true)
include link

theorem placementChecks_notRunning (op : s.reporting.opState ≠ .running) :
    placementChecks s i e f = .error .notRunning := by
  rw [placementChecks, if_neg notSuspended, link, if_neg (by decide), if_pos op]

variable (op : s.reporting.opState = .running)
include op

theorem placementChecks_badShape (length : f.body.length ≠ e.shape.bodyLength) :
    placementChecks s i e f = .error .badShape := by
  rw [placementChecks, if_neg notSuspended, link, if_neg (by decide), if_neg (not_not.2 op),
    if_pos length]

variable (length : f.body.length = e.shape.bodyLength)
include length

theorem placementChecks_badTime (bad : samplePoint s.grid.rate e.shape f.body = none) :
    placementChecks s i e f = .error .badTime := by
  rw [placementChecks, if_neg notSuspended, link, if_neg (by decide), if_neg (not_not.2 op),
    if_neg (not_not.2 length), bad]

theorem placementChecks_timed {p : SamplePoint} {g : Nat}
    (point : samplePoint s.grid.rate e.shape f.body = some (p, g)) : placementChecks s i e f =
      if e.options.tolerance < p.offset.natAbs then
        if (ownGridOffset e.shape.rate g).natAbs ≤ e.options.tolerance then .error .decimated
        else .error .misaligned
      else
        match windowChecks s i e p.instant with
        | some r => .error r
        | none => .ok p := by
  rw [placementChecks, if_neg notSuspended, link, if_neg (by decide), if_neg (not_not.2 op),
    if_neg (not_not.2 length), point] <;> rfl

end

end

/-- Settles O31: each refusal is the answer of the checks before it. -/
theorem placementRefusesBeforeTheTimeIsKnown : Obligations.PlacementRefusesBeforeTheTimeIsKnown := by
  rintro s d i e b atRest dispatch kind rfl rfl rfl
  refine ⟨fun unfit => exec_placementStep_unfit atRest dispatch kind fun fits => ?_,
    fun used staying named => ?_⟩
  · obtain ⟨used, staying, named⟩ := fits_iff.1 fits
    rcases unfit with h | h | h
    exacts [used h, staying h, h named]
  · have refused (r : SampleRefusal) := exec_placementStep_refused (r := r) atRest dispatch kind
      (fits_iff.2 ⟨used, staying, named⟩)
    exact ⟨fun suspended => refused .suspendedDrops (if_pos suspended),
      fun awake link => refused .wrongLink (placementChecks_wrongLink awake link),
      fun awake link => ⟨fun op => refused .notRunning (placementChecks_notRunning awake link op),
        fun op length => refused .badShape (placementChecks_badShape awake link op length),
        fun op length bad => refused .badTime
          (placementChecks_badTime awake link op length (samplePoint_none bad))⟩⟩

/-! ## Checks 6 to 11 (R6, R7, R82 to R87) -/

section
variable {s : State} {d : Dispatch} {e : Entry} {n s' g : Nat} {δ : Int}

theorem State.Places.fits (h : s.Places d e n δ s' g) :
    (s.entry d.source).fits d.frame = true := by
  rw [← h.entry]
  exact fits_iff.2 ⟨h.used, h.notRetiring, h.id⟩

theorem State.Places.checks (h : s.Places d e n δ s' g) :
    placementChecks s d.source (s.entry d.source) d.frame =
      if e.options.tolerance < δ.natAbs then
        if (ownGridOffset e.shape.rate g).natAbs ≤ e.options.tolerance then .error .decimated
        else .error .misaligned
      else
        match windowChecks s d.source e n with
        | some r => .error r
        | none => .ok ⟨n, δ, s' * 6000000 + g⟩ := by
  rw [← h.entry]
  exact placementChecks_timed h.notSuspended h.link h.running h.length
    (samplePoint_some h.quality h.grains h.instant)

theorem State.Places.exec_refused {r : SampleRefusal} (h : s.Places d e n δ s' g)
    (refused : placementChecks s d.source (s.entry d.source) d.frame = .error r) :
    exec .placementStep s = .next (endDispatch (refuseSample d.source r s)) :=
  exec_placementStep_refused h.atRest h.inDispatch h.kind h.fits refused

theorem State.Places.exec_window {r : SampleRefusal} (h : s.Places d e n δ s' g)
    (near : δ.natAbs ≤ e.options.tolerance) (refused : windowChecks s d.source e n = some r) :
    exec .placementStep s = .next (endDispatch (refuseSample d.source r s)) := by
  refine h.exec_refused ?_
  rw [h.checks, if_neg (Nat.not_lt.2 near), refused]

variable {i : Nat}

theorem horizon_below (above : ∀ h, s.window.horizon = some h → h < n) :
    (s.window.horizon.any fun h => decide (n ≤ h)) = false := by
  rw [Bool.eq_false_iff, Ne, horizon_reaches_iff]
  rintro ⟨h, eq, le⟩
  exact absurd (above h eq) (Nat.not_lt.2 le)

/-- R83: the receipt history decides at or below the horizon, the contributor list above it. -/
theorem isDuplicate_iff : isDuplicate s i e n = true ↔
    (∃ h, s.window.horizon = some h ∧ n ≤ h) ∧ e.receipt.marked n = true ∨
    (∀ h, s.window.horizon = some h → h < n) ∧
      ∃ slot r, s.slot? n = some slot ∧ tableFind i slot.contributors = some r := by
  unfold isDuplicate
  by_cases reached : ∃ h, s.window.horizon = some h ∧ n ≤ h
  · rw [if_pos (horizon_reaches_iff.2 reached)]
    obtain ⟨h, eq, le⟩ := reached
    refine ⟨fun marked => .inl ⟨⟨h, eq, le⟩, marked⟩, ?_⟩
    rintro (⟨-, marked⟩ | ⟨above, -⟩)
    · exact marked
    · exact absurd (above h eq) (Nat.not_lt.2 le)
  · have above : ∀ h, s.window.horizon = some h → h < n := fun h eq =>
      Nat.lt_of_not_le fun le => reached ⟨h, eq, le⟩
    rw [if_neg (by rw [horizon_below above]; decide)]
    cases slot : s.slot? n with
    | none => simp [reached]
    | some v =>
      simp only [reached, Option.isSome_iff_exists]
      simpa using fun _ _ => above

section
variable (fresh : ¬isDuplicate s i e n = true)
include fresh

theorem windowChecks_late (reached : ∃ h, s.window.horizon = some h ∧ n ≤ h) :
    windowChecks s i e n = some .late := by
  rw [windowChecks, if_neg fresh, if_pos (horizon_reaches_iff.2 reached)]

variable (above : ∀ h, s.window.horizon = some h → h < n)
include above

theorem windowChecks_early (far : s.currentInstant + s.grid.futureLimit < n) :
    windowChecks s i e n = some .early := by
  rw [windowChecks, if_neg fresh, horizon_below above, if_neg (by decide), if_pos far]

variable (near : n ≤ s.currentInstant + s.grid.futureLimit)
include near

theorem windowChecks_noSlot (absent : s.slot? n = none) (full : roomFor n s.window.slots = false) :
    windowChecks s i e n = some .noSlot := by
  rw [windowChecks, if_neg fresh, horizon_below above, if_neg (by decide),
    if_neg (Nat.not_lt.2 near), absent, full]
  rfl

theorem windowChecks_room (room : s.slot? n ≠ none ∨ roomFor n s.window.slots = true) :
    windowChecks s i e n = if s.window.freeRecords = 0 then some .storeFull else none := by
  rw [windowChecks, if_neg fresh, horizon_below above, if_neg (by decide),
    if_neg (Nat.not_lt.2 near), if_neg]
  rcases room with present | room
  · rw [Option.isNone_eq_false_iff.2 (Option.isSome_iff_ne_none.2 present), Bool.false_and]
    decide
  · rw [room, Bool.not_true, Bool.and_false]
    decide

end

end

/-- Settles O32: each refusal is the answer of the checks before it. -/
theorem placementRefusesByTheGridAndTheWindow :
    Obligations.PlacementRefusesByTheGridAndTheWindow := by
  rintro s d e i n δ s' g duplicate places rfl meaning
  rw [← isDuplicate_iff] at meaning
  refine ⟨fun far => ⟨fun own => ?_, fun own => ?_⟩, fun near => ⟨fun dup => ?_, fun fresh reached => ?_,
    fun fresh above => ⟨fun early => ?_, fun within => ⟨fun absent full => ?_, fun room none => ?_⟩⟩⟩⟩
  · refine places.exec_refused (r := .decimated) ?_
    rw [places.checks, if_pos far, if_pos own]
  · refine places.exec_refused (r := .misaligned) ?_
    rw [places.checks, if_pos far, if_neg (Nat.not_le.2 own)]
  · exact places.exec_window (r := .duplicate) near (if_pos (meaning.1 dup))
  · exact places.exec_window (r := .late) near (windowChecks_late (mt meaning.2 fresh) reached)
  · exact places.exec_window (r := .early) near (windowChecks_early (mt meaning.2 fresh) above early)
  · exact places.exec_window (r := .noSlot) near
      (windowChecks_noSlot (mt meaning.2 fresh) above within absent full)
  · have refused := places.exec_window near
      ((windowChecks_room (mt meaning.2 fresh) above within room).trans (if_pos none))
    rintro u rfl
    have same : (s.countSource d.source (countRefusal .storeFull)).flag .storeExhausted =
        s.flag .storeExhausted := rfl
    refine ⟨fun set => refused.trans ?_, fun clear => refused.trans ?_⟩
    · rw [refuseSample, congestion, same, set]
      rfl
    · rw [refuseSample, congestion, same, clear]
      rfl

end Sys2Proof.Machine

/-! The accepted sample (R88 to R95) and the handling of a description (R69 to R71). -/

namespace Sys2Proof.Machine

/-! ## The record of a sample (R9, R89, R90) -/

/-- A bit of a 16-bit field, by the value of the field. -/
theorem getLsbD_field (x k : Nat) (short : k < 16) :
    (BitVec.ofNat 16 x).getLsbD k = true ↔ x / 2 ^ k % 2 = 1 := by
  rw [BitVec.getLsbD_ofNat, decide_eq_true short, Bool.true_and, Nat.testBit_eq_decide_div_mod_eq,
    decide_eq_true_iff]

theorem dataInvalid_iff (x : Nat) :
    dataInvalid (BitVec.ofNat 16 x) = true ↔ 32768 ≤ x % 65536 := by
  rw [dataInvalid, getLsbD_field x 15 (by decide)]
  omega

theorem syncLost_iff (x : Nat) : syncLost (BitVec.ofNat 16 x) = true ↔ 16384 ≤ x % 32768 := by
  rw [syncLost, getLsbD_field x 14 (by decide)]
  omega

theorem rotate_zero (angle : Word16) : rotate angle 0 = angle := by
  simp [rotate]

theorem reReferences_iff (e : Entry) (x : Nat) (δ : Int) :
    e.reReferences (BitVec.ofNat 16 x) δ = true ↔
      e.options.reReference = true ∧ δ ≠ 0 ∧ x % 65536 < 32768 := by
  have valid : dataInvalid (BitVec.ofNat 16 x) = false ↔ x % 65536 < 32768 := by
    rw [Bool.eq_false_iff, Ne, dataInvalid_iff]
    omega
  simp [Entry.reReferences, valid, and_assoc]

/-- Settles O33: the fields of `fillRecord`, with its marks by their bits. -/
theorem recordHoldsTheSample : Obligations.RecordHoldsTheSample := by
  rintro i e b p r applied rfl meaning
  have applies := (reReferences_iff e (fieldAt b 10 2) p.offset).trans meaning.symm
  refine ⟨rfl, rfl, rfl, rfl, rfl, rfl, rfl, by simp [fillRecord], by simp [fillRecord], ?_, ?_,
    dataInvalid_iff _, ?_, applies, ?_⟩
  · intro k x found
    simp only [fillRecord, List.getElem?_map, Option.map_eq_some_iff] at found
    obtain ⟨j, listed, rfl⟩ := found
    obtain ⟨short, eq⟩ := List.getElem?_eq_some_iff.1 listed
    obtain rfl : k = j := by simpa using eq
    refine ⟨rfl, fun h => ?_, fun h => ?_⟩
    · exact congrArg (rotate _) (if_pos (applies.2 h))
    · exact (congrArg (rotate _) (if_neg (mt applies.1 h))).trans (rotate_zero _)
  · intro k x found
    simp only [fillRecord, List.getElem?_map, Option.map_eq_some_iff] at found
    obtain ⟨j, listed, rfl⟩ := found
    obtain ⟨short, eq⟩ := List.getElem?_eq_some_iff.1 listed
    obtain rfl : k = j := by simpa using eq
    rfl
  · simp only [fillRecord, Bool.or_eq_true, bodyQuality, bodyStatus, syncLost_iff]
    exact or_congr_left decide_eq_true_iff
  · have unapplied : e.reReferences (BitVec.ofNat 16 (fieldAt b 10 2)) p.offset = false ↔ ¬applied := by
      rw [Bool.eq_false_iff, Ne, applies]
    simp only [fillRecord, bodyStatus, Bool.and_eq_true, decide_eq_true_eq, Bool.not_eq_true', unapplied]

/-! ## Acceptance (R88, R91 to R95) -/

section
variable {s : State} {d : Dispatch} {e : Entry} {n s' g : Nat} {δ : Int}

theorem State.Places.accepted (h : s.Places d e n δ s' g) (near : δ.natAbs ≤ e.options.tolerance)
    (above : ∀ h, s.window.horizon = some h → h < n)
    (within : n ≤ s.time.grains / s.grid.period + s.grid.futureLimit)
    (free : 0 < s.window.freeRecords) (room : s.slot? n ≠ none ∨ roomFor n s.window.slots = true)
    (fresh : ∀ slot, s.slot? n = some slot → tableFind d.source slot.contributors = none) :
    placementChecks s d.source (s.entry d.source) d.frame = .ok ⟨n, δ, s' * 6000000 + g⟩ := by
  have notDuplicate : ¬isDuplicate s d.source e n = true := by
    rw [isDuplicate_iff]
    rintro (⟨⟨h, eq, le⟩, -⟩ | ⟨-, slot, r, found, listed⟩)
    · exact absurd (above h eq) (Nat.not_lt.2 le)
    · rw [fresh slot found] at listed
      cases listed
  rw [h.checks, if_neg (Nat.not_lt.2 near), windowChecks_room notDuplicate above within room,
    if_neg free.ne']

theorem State.Places.exec_accepted (h : s.Places d e n δ s' g) {p : SamplePoint}
    (accepted : placementChecks s d.source (s.entry d.source) d.frame = .ok p) :
    exec .placementStep s = .next (if (s.slot? p.instant).isSome then
        endDispatch (acceptSample d.source d.frame p s)
      else expireOpened p.instant (endDispatch (acceptSample d.source d.frame p s))) := by
  have opens : s.opensSlot d = if (s.slot? p.instant).isSome then none else some p.instant := by
    rw [State.opensSlot, if_pos h.fits, accepted]
  have placed : placeSample d s = acceptSample d.source d.frame p s := by
    rw [placeSample, if_pos h.fits, accepted]
  rw [exec_placementStep h.atRest h.inDispatch h.kind, opens, placed]
  split <;> rfl

end

/-- The record joins the slot and the entry is written; the evaluations follow. -/
theorem acceptSample_eq {s v : State} {e : Entry} {i : Nat} {f : IngestFrame} {p : SamplePoint}
    (entry : e = s.entry i) (placed : v = (insertRecord i (fillRecord i e f.body p) s).setEntry i
      (e.accept p.instant (measuredLatency (f.stampSecond * 6000000 + f.stampFraction) p.grains))) :
    acceptSample i f p s = evaluatePressure (evaluatePlaced p.instant
      (if e.state = .stalled then raiseSource i .recovered v else v)) := by
  subst entry placed
  rfl

/-- Settles O34: the checks pass, the record joins the slot, and the entry is written; an opened slot
expires where its deadline is reached. -/
theorem acceptedSampleJoinsItsSlot : Obligations.AcceptedSampleJoinsItsSlot := by
  refine ⟨?_, ?_⟩
  · rintro x n now rfl
    obtain ⟨expires, waits⟩ := expireOpened_spec n x
    refine ⟨fun slot rest found unclosed fresh running reached =>
      expires slot rest found (by rw [Slot.watched, unclosed, fresh]; rfl) running reached,
      fun quiet => waits fun slot found => ?_⟩
    obtain closed | overdue | rest := quiet slot found
    · exact .inl (by rw [Slot.watched, closed, Bool.false_and])
    · exact .inl (by rw [Slot.watched, overdue, Bool.not_true, Bool.and_false])
    · exact .inr rest
  · rintro s d e e' i n δ s' g r u v w places rfl near above within free rfl e'Is wIs
    refine ⟨fun slot found fresh vIs => ?_, fun absent room uIs vIs => ?_⟩
    · have accepted := places.accepted near above within free (.inl (by rw [found]; simp))
        (fun other at_n => by rw [found] at at_n; cases at_n; exact fresh)
      rw [places.exec_accepted accepted, found,
        acceptSample_eq (v := v) places.entry (by rw [insertRecord_of_some found, vIs, e'Is]; rfl), wIs]
      rfl
    · have accepted := places.accepted near above within free (.inr room)
        (fun other at_n => by rw [absent] at at_n; cases at_n)
      rw [places.exec_accepted accepted, absent,
        acceptSample_eq (v := v) places.entry (by
          rw [insertRecord_of_none absent, deadlineNow_eq, vIs, uIs, e'Is]; rfl), wIs]
      rfl

end Sys2Proof.Machine

/-! The handling of a description (R69 to R71). -/

namespace Sys2Proof.Machine

theorem descriptionValid_iff (f0 : Nat) (b : List Byte) : descriptionValid f0 b = true ↔
    b.length = 10 ∧ fieldAt b 2 1 = f0 ∧ fieldAt b 3 1 ∈ rateFamily f0 ∧ 1 ≤ fieldAt b 4 3 ∧
      fieldAt b 7 1 ≤ 15 ∧ fieldAt b 8 1 ≤ 8 ∧ fieldAt b 9 1 ≤ 1 := by
  simp only [descriptionValid, Bool.and_eq_true, decide_eq_true_eq, List.contains_iff_mem, and_assoc,
    Nat.one_le_iff_ne_zero]

section
variable {s : State} {d : Dispatch} {e : Entry}

theorem exec_descriptionHandling (atRest : s.AtRest) (dispatch : s.ingest.dispatch = some d)
    (kind : d.frame.kind = .description) :
    exec .descriptionHandling s = .next (endDispatch (describe d s)) := by
  show event descriptionHandling s = _
  rw [event_at_rest atRest, descriptionHandling, dispatch]
  exact congrArg _ (if_pos kind)

theorem describe_unfit (unfit : ¬(s.entry d.source).fits d.frame = true) :
    describe d s = recordUnknown d.frame s := if_neg unfit

theorem describe_fit (entry : e = s.entry d.source) (fits : e.fits d.frame = true) : describe d s =
    if e.links.get d.frame.link = false then
      s.countSource d.source fun c => { c with wrongLink := bump c.wrongLink }
    else if e.options.remoteAllowed = false then
      s.countSource d.source fun c => { c with remoteRefused := bump c.remoteRefused }
    else if descriptionValid s.grid.f0 d.frame.body = true then
      applyDescription d.source (describedShape d.frame.body) s
    else s.countSource d.source fun c => { c with badDescription := bump c.badDescription } := by
  subst entry
  rw [describe, if_pos fits]
  simp only [Bool.not_eq_true']

/-- The entry with its description counted. -/
theorem entry_countSource (s : State) (i : Nat) (f : SourceCounters → SourceCounters) :
    (s.countSource i f).entry i = { s.entry i with counters := f (s.entry i).counters } :=
  State.entry_setEntry_self ..

theorem applyDescription_same {i : Nat} {h : SourceShape} (same : (s.entry i).shape = h) :
    applyDescription i h s = s.countSource i fun c => { c with descriptions := bump c.descriptions } := by
  refine if_pos ?_
  rw [entry_countSource]
  exact same

theorem reshape_state {h : SourceShape} (used : e.state ≠ .unused) (staying : e.state ≠ .retiring) :
    (e.reshape h).state = if e.state = .suspended then .suspended else .declared := by
  unfold Entry.reshape
  cases state : e.state with
  | unused => exact absurd state used
  | retiring => exact absurd state staying
  | declared | active | stalled | suspended => rfl

/-- A changed shape (R71): the entry takes it, and what follows is by the state it was in. -/
theorem applyDescription_changed {i : Nat} {h : SourceShape} {u : State}
    (used : (s.entry i).state ≠ .unused) (staying : (s.entry i).state ≠ .retiring)
    (changed : (s.entry i).shape ≠ h) (written : u = { s with
      sources := tableInsert i
        { (s.entry i).reshape h with counters := { (s.entry i).counters with
            descriptions := bump (s.entry i).counters.descriptions } } s.sources
      assembler := { s.assembler with holdBank := tableErase i s.assembler.holdBank } }) :
    applyDescription i h s = if (s.entry i).state = .active then
      reevaluate (raiseSource i .shapeChanged u) else raiseSource i .shapeChanged u := by
  have counted := entry_countSource s i fun c => { c with descriptions := bump c.descriptions }
  have listed : (s.countSource i fun c => { c with descriptions := bump c.descriptions }) = { s with
      sources := tableInsert i { s.entry i with counters := { (s.entry i).counters with
        descriptions := bump (s.entry i).counters.descriptions } } s.sources } :=
    setEntry_of_used s i _ used
  have reshaped : ((s.entry i).reshape h).state ≠ .unused := by
    rw [reshape_state used staying]
    split <;> decide
  unfold applyDescription
  dsimp only
  rw [counted, if_neg changed, listed, setEntry_of_used]
  · simp only [tableInsert_insert]
    rw [written]
    rfl
  · exact reshaped

end

/-- Settles O35: the checks in their order, and the shape that an accepted description brings. -/
theorem descriptionIsCheckedAndApplied : Obligations.DescriptionIsCheckedAndApplied := by
  rintro s u d i e b h valid atRest dispatch kind rfl rfl rfl meaning shape
  have described : describedShape d.frame.body = h := by
    rw [shape]
    rfl
  rw [exec_descriptionHandling atRest dispatch kind, ← descriptionValid_iff] at *
  refine ⟨fun unfit => ?_, fun used staying named => ?_⟩
  · rw [describe_unfit]
    rw [fits_iff]
    rintro ⟨used, staying, named⟩
    rcases unfit with h | h | h
    exacts [used h, staying h, h named]
  · rw [describe_fit rfl (fits_iff.2 ⟨used, staying, named⟩)]
    refine ⟨fun link => ?_, fun link remote => ?_, fun link remote => ⟨fun invalid => ?_,
      fun ok same => ?_, fun ok changed uIs => ⟨fun active => ?_, fun inactive => ?_⟩⟩⟩
    · rw [if_pos link]
      rfl
    · rw [if_neg (by rw [link]; decide), if_pos remote]
      rfl
    all_goals rw [if_neg (by rw [link]; decide), if_neg (by rw [remote]; decide)]
    · rw [if_neg (mt meaning.2 invalid)]
      rfl
    · rw [if_pos (meaning.1 ok), applyDescription_same (by rw [described, same])]
      rfl
    all_goals
      rw [if_pos (meaning.1 ok), described, applyDescription_changed (u := u) used staying changed (by
        rw [uIs, ← reshape_state (h := h) used staying]
        rfl)]
    · rw [if_pos active]
    · rw [if_neg inactive]

end Sys2Proof.Machine

/-! Completion and the completion walk (R104, R107). -/

namespace Sys2Proof.Machine

section
variable {s : State}

/-! ## Evaluation (R59, R104) -/

theorem mem_awaitedSources {rate n i : Nat} {sources : Table Entry} : i ∈ awaitedSources rate n sources ↔
    ∃ p ∈ sources, p.1 = i ∧ p.2.state = .active ∧ p.2.options.required = true ∧
      n % rate * p.2.shape.rate % rate = 0 := by
  simp only [awaitedSources, List.mem_map, List.mem_filter, Bool.and_eq_true, awaited_iff,
    expectedAt_iff]
  constructor
  · rintro ⟨p, ⟨mem, ⟨active, required⟩, expected⟩, eq⟩
    exact ⟨p, mem, eq, active, required, expected⟩
  · rintro ⟨p, mem, eq, active, required, expected⟩
    exact ⟨p, ⟨mem, ⟨active, required⟩, expected⟩, eq⟩

/-- An OPEN slot becomes READY where some source is awaited and every awaited one has contributed. -/
theorem becomesReady_iff {rate n : Nat} {sources : Table Entry} {slot : Slot} :
    becomesReady rate n sources slot = true ↔ slot.state = .opened ∧
      (∃ i, i ∈ awaitedSources rate n sources) ∧
      ∀ i ∈ awaitedSources rate n sources, ∃ r, tableFind i slot.contributors = some r := by
  have some_mem (l : List Nat) : (!l.isEmpty) = true ↔ ∃ i, i ∈ l := by
    cases l <;> simp
  simp only [becomesReady, slotComplete, Bool.and_eq_true, decide_eq_true_eq, some_mem, List.all_eq_true,
    Option.isSome_iff_exists]

theorem evaluated_ready {rate n : Nat} {sources : Table Entry} {slot : Slot}
    (ready : becomesReady rate n sources slot = true) :
    evaluated rate n sources slot = { slot with state := .ready } := if_pos ready

theorem evaluated_unready {rate n : Nat} {sources : Table Entry} {slot : Slot}
    (unready : ¬becomesReady rate n sources slot = true) : evaluated rate n sources slot = slot :=
  if_neg unready

theorem evaluatePlaced_ready {k : Nat} {slot : Slot} (found : s.slot? k = some slot)
    (ready : becomesReady s.grid.rate k s.sources slot = true) : evaluatePlaced k s =
      settle { s with window := { s.window with
        slots := tableInsert k { slot with state := .ready } s.window.slots } } := by
  have evaluates : evaluateSlot k s = ({ s with window := { s.window with
      slots := tableInsert k { slot with state := .ready } s.window.slots } }, true) := by
    rw [evaluateSlot, found]
    exact if_pos ready
  simp only [evaluatePlaced, evaluates, if_true]

theorem evaluatePlaced_unready {k : Nat}
    (unready : ∀ slot, s.slot? k = some slot → ¬becomesReady s.grid.rate k s.sources slot = true) :
    evaluatePlaced k s = s := by
  have evaluates : evaluateSlot k s = (s, false) := by
    rw [evaluateSlot]
    cases found : s.slot? k with
    | none => rfl
    | some slot => exact if_neg (unready slot found)
  simp only [evaluatePlaced, evaluates]
  rfl

theorem evaluateAll_any (sorted : tableSorted s.window.slots) : (evaluateAll s).2 = true ↔
    ∃ k slot, s.slot? k = some slot ∧ becomesReady s.grid.rate k s.sources slot = true := by
  simp only [evaluateAll, List.any_eq_true, Prod.exists]
  exact ⟨fun ⟨k, slot, mem, ready⟩ => ⟨k, slot, tableFind_of_mem sorted mem, ready⟩,
    fun ⟨k, slot, found, ready⟩ => ⟨k, slot, mem_of_tableFind found, ready⟩⟩

/-- With no slot complete an evaluation of all changes nothing. -/
theorem evaluateAll_unready (sorted : tableSorted s.window.slots)
    (unready : ∀ k slot, s.slot? k = some slot →
      ¬becomesReady s.grid.rate k s.sources slot = true) : (evaluateAll s).1 = s := by
  have same : (s.window.slots.map fun p => (p.1, evaluated s.grid.rate p.1 s.sources p.2)) =
      s.window.slots := by
    refine (List.map_congr_left fun p mem => ?_).trans (List.map_id _)
    rw [evaluated_unready (unready p.1 p.2 (tableFind_of_mem sorted mem))]
    rfl
  simp only [evaluateAll, same]

/-! ## The walk (R107) -/

/-- The instants of a list of closes for one reason. -/
theorem reason_keys (r : CloseReason) (l : List Nat) : (l.map (·, r)).map (·.1) = l := by
  rw [List.map_map]
  exact List.map_id _

theorem ready_unclosed {v : Slot} (ready : v.state = .ready) : v.unclosed = true := by
  simp [Slot.unclosed, ready]

/-- The walk over the unclosed slots, by the slot map. -/
theorem mem_walk (sorted : tableSorted s.window.slots) (h k : Nat) :
    k ∈ walkInstants s.time.cadenceMark h s.unclosedSlots ↔
      h < k ∧ (∃ v, s.slot? k = some v ∧ v.state = .ready) ∧ ∀ x, h < x → x < k →
        (∃ v, s.slot? x = some v ∧ v.state = .ready) ∨
        (∀ v, s.slot? x = some v → v.unclosed = false) ∧
          ∃ m, s.time.cadenceMark = some m ∧ x ≤ m := by
  have ready (x : Nat) : (∃ v, (x, v) ∈ s.unclosedSlots ∧ v.state = .ready) ↔
      ∃ v, s.slot? x = some v ∧ v.state = .ready := by
    simp only [mem_unclosedSlots sorted]
    exact ⟨fun ⟨v, ⟨found, _⟩, ready⟩ => ⟨v, found, ready⟩,
      fun ⟨v, found, ready⟩ => ⟨v, ⟨found, ready_unclosed ready⟩, ready⟩⟩
  have passed (x : Nat) : (∀ v, (x, v) ∉ s.unclosedSlots) ↔
      ∀ v, s.slot? x = some v → v.unclosed = false := by
    simp only [mem_unclosedSlots sorted, not_and, Bool.not_eq_true]
  rw [mem_walkInstants _ _ _ (unclosedSlots_sorted sorted)]
  simp only [ready, passed]

theorem completionWalk_active {h : Nat} (mode : s.window.config.mode = .early)
    (op : s.reporting.opState = .running) (horizon : s.window.horizon = some h) : completionWalk s =
      closeAll ((walkInstants s.time.cadenceMark h s.unclosedSlots).map (·, .complete)) s := by
  rw [completionWalk, if_pos ⟨mode, op⟩, horizon]

theorem completionWalk_idle (idle : s.window.config.mode ≠ .early ∨ s.reporting.opState ≠ .running ∨
    s.window.horizon = none) : completionWalk s = s := by
  unfold completionWalk
  split
  next active =>
    obtain mode | op | horizon := idle
    · exact absurd active.1 mode
    · exact absurd active.2 op
    · rw [horizon]
  · rfl

end

/-- Settles O36: an evaluation by its slots, and the walk by the instants it reaches. -/
theorem completionIsEvaluatedAndWalkedInInstantOrder :
    Obligations.CompletionIsEvaluatedAndWalkedInInstantOrder := by
  intro s awaits complete sorted awaitsIff completeIff
  have ready (k : Nat) (slot : Slot) :
      becomesReady s.grid.rate k s.sources slot = true ↔ complete k slot := by
    rw [completeIff, becomesReady_iff]
    simp only [mem_awaitedSources, awaitsIff]
    refine and_congr_right fun _ => and_congr ⟨?_, ?_⟩ ⟨?_, ?_⟩
    · rintro ⟨i, p, mem, -, awaited⟩
      exact ⟨p, mem, awaited⟩
    · rintro ⟨p, mem, awaited⟩
      exact ⟨p.1, p, mem, rfl, awaited⟩
    · intro all p mem awaited
      exact all p.1 ⟨p, mem, rfl, awaited⟩
    · rintro all i ⟨p, mem, rfl, awaited⟩
      exact all p mem awaited
  refine ⟨fun k slot found => ⟨fun isComplete => ⟨?_, ?_⟩, fun incomplete => ⟨?_, ?_⟩⟩,
    fun k absent => ⟨?_, ?_⟩, rfl, ?_, ?_, completionWalk_idle, ?_⟩
  · rw [evaluateAll_slot?, found, Option.map_some, evaluated_ready ((ready k slot).2 isComplete)]
  · exact evaluatePlaced_ready found ((ready k slot).2 isComplete)
  · rw [evaluateAll_slot?, found, Option.map_some,
      evaluated_unready (mt (ready k slot).1 incomplete)]
  · refine evaluatePlaced_unready fun other at_k => ?_
    obtain rfl : slot = other := Option.some.inj (found.symm.trans at_k)
    exact mt (ready k slot).1 incomplete
  · rw [evaluateAll_slot?, absent, Option.map_none]
  · exact evaluatePlaced_unready fun slot found => by rw [absent] at found; cases found
  · rintro ⟨k, slot, found, isComplete⟩
    exact if_pos ((evaluateAll_any sorted).2 ⟨k, slot, found, (ready k slot).2 isComplete⟩)
  · intro incomplete
    have unready (k : Nat) (slot : Slot) (found : s.slot? k = some slot) :=
      mt (ready k slot).1 (incomplete k slot found)
    refine (if_neg fun any => ?_).trans (evaluateAll_unready sorted unready)
    obtain ⟨k, slot, found, becomes⟩ := (evaluateAll_any sorted).1 any
    exact unready k slot found becomes
  · intro h reached mode op horizon reachedIff
    have members (k : Nat) :
        k ∈ walkInstants s.time.cadenceMark h s.unclosedSlots ↔ reached k :=
      (mem_walk sorted h k).trans (reachedIff k).symm
    have rising := (walkInstants_rising s.time.cadenceMark h s.unclosedSlots).1
    rw [completionWalk_active mode op horizon]
    refine ⟨fun k slot found => ?_, fun closes risingCloses closesIff => ?_⟩
    · have keys := reason_keys .complete (walkInstants s.time.cadenceMark h s.unclosedSlots)
      obtain ⟨closed, others, -⟩ := closeAll_closes
        ((walkInstants s.time.cadenceMark h s.unclosedSlots).map (·, .complete)) s
        (by rw [keys]; exact rising) (by
          intro p mem
          obtain ⟨x, walked, rfl⟩ := List.mem_map.1 mem
          obtain ⟨-, ⟨v, found, isReady⟩, -⟩ := (mem_walk sorted h x).1 walked
          exact ⟨v, found, ready_unclosed isReady⟩)
      exact ⟨fun isReached => closed k _ slot (List.mem_map_of_mem ((members k).2 isReached)) found,
        fun beyond => (others k (by rw [keys]; exact mt (members k).1 beyond)).trans found⟩
    · rw [rising_ext rising risingCloses fun k => (members k).trans (closesIff k).symm,
        closeAll_reason]

end Sys2Proof.Machine

/-! One close (R106), and the evaluation of store pressure (R100, R111). -/

namespace Sys2Proof.Machine

/-! ## Slots by their state (R98, R100) -/

theorem unclosed_iff (slot : Slot) :
    slot.unclosed = true ↔ slot.state = .opened ∨ slot.state = .ready := by
  simp [Slot.unclosed]

theorem attachedRecords_eq_sum (t : Table Slot) :
    attachedRecords t = (t.map fun p => p.2.contributors.length).sum := by
  induction t with
  | nil => rfl
  | cons p t ih => rw [attachedRecords, ih, List.map_cons, List.sum_cons]

theorem reclaimable_eq_sum (s : State) : s.reclaimable = ((s.window.slots.filter fun p =>
    decide (p.2.state = .closed ∨ p.2.state = .assembling)).map fun p =>
      p.2.contributors.length).sum := by
  rw [State.reclaimable, attachedRecords_eq_sum]
  simp only [Slot.reclaimable, Bool.decide_or]

section
variable {s : State} {n : Nat} {slot : Slot}

/-! ## One close (R106, R115) -/

theorem closeSlot_of_absent (r : CloseReason) (absent : s.slot? n = none) : closeSlot n r s = s := by
  rw [closeSlot, absent]

theorem closeSlot_of_closed (r : CloseReason) (found : s.slot? n = some slot)
    (closed : slot.unclosed = false) : closeSlot n r s = s := by
  rw [closeSlot, found]
  exact if_neg (by rw [closed]; decide)

theorem closeSlot_of_unclosed (r : CloseReason) (found : s.slot? n = some slot)
    (unclosed : slot.unclosed = true) : closeSlot n r s = { s with window := { s.window with
      slots := tableInsert n { slot with state := .closed, closeReason := some r } s.window.slots
      assemblyQueue := s.window.assemblyQueue ++ [n]
      horizon := some n
      counters := countClose r s.window.counters } } := by
  rw [closeSlot, found]
  exact if_pos unclosed

/-! ## One pressure close (R111) -/

/-- A pressure close with what follows it. -/
def pressureClose (n : Nat) (s : State) : State :=
  settle (setFlag .pressure (closeSlot n .pressure s))

theorem pressureHolds_iff (sorted : tableSorted s.window.slots) : s.pressureHolds = true ↔
    s.window.freeRecords + s.reclaimable < s.window.config.lowWater ∧
      ∃ j v, s.slot? j = some v ∧ v.unclosed = true ∧ j ≤ s.time.grains / s.grid.period := by
  simp only [State.pressureHolds, Bool.and_eq_true, decide_eq_true_eq, List.any_eq_true, Prod.exists,
    mem_unclosedSlots sorted, and_assoc]
  rfl

theorem pressureClose_slotsSorted (sorted : SlotsSorted s) : SlotsSorted (pressureClose n s) :=
  settle_slotsSorted _ (closeSlot_slotsSorted n .pressure s sorted)

theorem pressureClose_flagsKept (n : Nat) (s : State) : FlagsKept s (pressureClose n s) :=
  ((setFlag_flagsKept .pressure _).trans (settle_flagsKept _)).after (by simp)

theorem pressureClose_flag (n : Nat) (s : State) : (pressureClose n s).flag .pressure = true :=
  settle_flagsKept _ _ (setFlag_self _ _)

theorem pressureClose_slots (n : Nat) (s : State) :
    SlotsKept (closeSlot n .pressure s) (pressureClose n s) :=
  (SlotsKept.of (by rfl)).trans (settle_slotsKept (setFlag .pressure (closeSlot n .pressure s)))

/-- A close leaves the slots that are not unclosed as they are. -/
theorem slot?_closeSlot {k : Nat} {v : Slot} (r : CloseReason) (found : s.slot? k = some v)
    (closed : v.unclosed = false) : (closeSlot n r s).slot? k = some v := by
  cases at_n : s.slot? n with
  | none => rw [closeSlot_of_absent r at_n, found]
  | some slot =>
    cases unclosed : slot.unclosed with
    | false => rw [closeSlot_of_closed r at_n unclosed, found]
    | true =>
      have other : k ≠ n := by
        rintro rfl
        rw [found] at at_n
        cases at_n
        rw [closed] at unclosed
        cases unclosed
      rw [closeSlot_of_unclosed r at_n unclosed]
      exact (tableFind_insert_ne other _ _).trans found

/-- A slot that is not unclosed keeps its close and its contributors. -/
def ClosedKept (s t : State) : Prop := ∀ k v, s.slot? k = some v → v.unclosed = false →
  ∃ v', t.slot? k = some v' ∧ v'.unclosed = false ∧ v'.closeReason = v.closeReason ∧
    v'.contributors = v.contributors

theorem ClosedKept.refl (s : State) : ClosedKept s s := fun _ v found closed => ⟨v, found, closed, rfl, rfl⟩

theorem ClosedKept.trans {t u : State} (first : ClosedKept s t) (second : ClosedKept t u) :
    ClosedKept s u := by
  intro k v found closed
  obtain ⟨v', found, closed, reason, contributors⟩ := first k v found closed
  obtain ⟨v'', found, closed, reason', contributors'⟩ := second k v' found closed
  exact ⟨v'', found, closed, reason'.trans reason, contributors'.trans contributors⟩

theorem pressureClose_closedKept (n : Nat) (s : State) : ClosedKept s (pressureClose n s) :=
  fun k v found closed => (pressureClose_slots n s).closed k v (slot?_closeSlot _ found closed) closed

/-- The slot closed is closed with PRESSURE, its contributors kept. -/
theorem pressureClose_closes (found : s.slot? n = some slot) (unclosed : slot.unclosed = true) :
    ∃ v, (pressureClose n s).slot? n = some v ∧ v.unclosed = false ∧
      v.closeReason = some .pressure ∧ v.contributors = slot.contributors := by
  refine (pressureClose_slots n s).closed n { slot with state := .closed, closeReason := some .pressure }
    ?_ rfl
  rw [closeSlot_of_unclosed .pressure found unclosed]
  exact tableFind_insert_self ..

/-- Each pressure close leaves one unclosed slot fewer. -/
theorem pressureClose_fewer (sorted : SlotsSorted s) (found : s.slot? n = some slot)
    (unclosed : slot.unclosed = true) :
    (pressureClose n s).unclosedSlots.length < s.unclosedSlots.length := by
  have sortedT := pressureClose_slotsSorted (n := n) sorted
  have closedN := pressureClose_closes found unclosed
  have still {k : Nat} (mem : k ∈ (pressureClose n s).unclosedSlots.map (·.1)) :
      k ≠ n ∧ k ∈ s.unclosedSlots.map (·.1) := by
    obtain ⟨⟨k, v⟩, listed, rfl⟩ := List.mem_map.1 mem
    obtain ⟨at_k, open_k⟩ := (mem_unclosedSlots sortedT k v).1 listed
    obtain ⟨w, before, openBefore⟩ := (pressureClose_slots n s).unclosed k v at_k open_k
    rw [closeSlot_of_unclosed .pressure found unclosed, State.slot?, tableFind_insert] at before
    split at before
    · cases before
      cases openBefore
    next other =>
      exact ⟨other, List.mem_map.2 ⟨(k, w), (mem_unclosedSlots sorted k w).2 ⟨before, openBefore⟩, rfl⟩⟩
  have distinct : (n :: (pressureClose n s).unclosedSlots.map (·.1)).Nodup :=
    List.nodup_cons.2 ⟨fun mem => (still mem).1 rfl, (unclosedSlots_sorted sortedT).imp ne_of_lt⟩
  have subset : n :: (pressureClose n s).unclosedSlots.map (·.1) ⊆ s.unclosedSlots.map (·.1) :=
    List.cons_subset.2 ⟨List.mem_map.2 ⟨(n, slot),
      (mem_unclosedSlots sorted n slot).2 ⟨found, unclosed⟩, rfl⟩, fun _ mem => (still mem).2⟩
  simpa using (List.subperm_of_subset distinct subset).length_le

/-! ## The evaluation (R111) -/

theorem pressureCloses_quiet (fuel : Nat) (quiet : s.pressureHolds = false) :
    pressureCloses fuel s = s := by
  cases fuel with
  | zero => rfl
  | succ fuel => exact if_neg (by rw [quiet]; decide)

/-- While pressure holds there is an oldest unclosed slot. -/
theorem oldest_of_pressure (sorted : SlotsSorted s) (holds : s.pressureHolds = true) :
    ∃ k v rest, s.unclosedSlots = (k, v) :: rest ∧ s.slot? k = some v ∧ v.unclosed = true := by
  obtain ⟨-, j, w, found, unclosed, -⟩ := (pressureHolds_iff sorted).1 holds
  obtain ⟨⟨k, v⟩, rest, split⟩ :=
    List.exists_cons_of_ne_nil (List.ne_nil_of_mem ((mem_unclosedSlots sorted j w).2 ⟨found, unclosed⟩))
  exact ⟨k, v, rest, split, (mem_unclosedSlots sorted k v).1 (by rw [split]; exact .head _)⟩

theorem pressureCloses_step {k : Nat} {v : Slot} {rest : Table Slot} (fuel : Nat)
    (holds : s.pressureHolds = true) (oldest : s.unclosedSlots = (k, v) :: rest) :
    pressureCloses (fuel + 1) s = pressureCloses fuel (pressureClose k s) := by
  rw [pressureCloses, if_pos holds, oldest]
  rfl

/-- As many closes as there are unclosed slots are enough: more change nothing. -/
theorem pressureCloses_enough (fuel : Nat) (s : State) (sorted : SlotsSorted s)
    (enough : s.unclosedSlots.length ≤ fuel) : pressureCloses fuel s = evaluatePressure s := by
  induction fuel using Nat.strongRecOn generalizing s with
  | _ fuel ih =>
    cases holds : s.pressureHolds with
    | false => rw [evaluatePressure, pressureCloses_quiet _ holds, pressureCloses_quiet _ holds]
    | true =>
      obtain ⟨k, v, rest, oldest, found, unclosed⟩ := oldest_of_pressure sorted holds
      have fewer := pressureClose_fewer sorted found unclosed
      have sortedT := pressureClose_slotsSorted (n := k) sorted
      have length : s.unclosedSlots.length = rest.length + 1 := by rw [oldest, List.length_cons]
      obtain ⟨more, rfl⟩ : ∃ more, fuel = more + 1 := ⟨fuel - 1, by omega⟩
      rw [evaluatePressure, length, pressureCloses_step _ holds oldest,
        pressureCloses_step _ holds oldest, ih more (by omega) _ sortedT (by omega),
        ih rest.length (by omega) _ sortedT (by omega)]

theorem evaluatePressure_quiet (quiet : s.pressureHolds = false) : evaluatePressure s = s :=
  pressureCloses_quiet _ quiet

/-- While pressure holds its evaluation closes the oldest unclosed slot and goes on. -/
theorem evaluatePressure_step {k : Nat} {v : Slot} {rest : Table Slot} (sorted : SlotsSorted s)
    (holds : s.pressureHolds = true) (oldest : s.unclosedSlots = (k, v) :: rest) :
    evaluatePressure s = evaluatePressure (pressureClose k s) := by
  have ⟨found, unclosed⟩ := (mem_unclosedSlots sorted k v).1 (by rw [oldest]; exact .head _)
  have fewer := pressureClose_fewer sorted found unclosed
  rw [evaluatePressure, oldest, List.length_cons, pressureCloses_step _ holds oldest,
    pressureCloses_enough _ _ (pressureClose_slotsSorted sorted)]
  rw [oldest, List.length_cons] at fewer
  omega

/-- What every pressure close keeps holds after the evaluation, which ends without pressure. -/
theorem evaluatePressure_keeps {Q : State → Prop} (close : ∀ k s, Q s → Q (pressureClose k s)) (s : State)
    (sorted : SlotsSorted s) (h : Q s) :
    Q (evaluatePressure s) ∧ (evaluatePressure s).pressureHolds = false := by
  generalize count : s.unclosedSlots.length = size
  induction size using Nat.strongRecOn generalizing s with
  | _ size ih =>
    cases holds : s.pressureHolds with
    | false =>
      rw [evaluatePressure_quiet holds]
      exact ⟨h, holds⟩
    | true =>
      obtain ⟨k, v, rest, oldest, found, unclosed⟩ := oldest_of_pressure sorted holds
      rw [evaluatePressure_step sorted holds oldest]
      exact ih _ (count ▸ pressureClose_fewer sorted found unclosed) _ (pressureClose_slotsSorted sorted)
        (close k s h) rfl

end

/-- Settles O37: one close by its slot, and the evaluation of pressure by its closes. -/
theorem closesQueueTheSlotAndPressureRepeatsThem :
    Obligations.ClosesQueueTheSlotAndPressureRepeatsThem := by
  refine ⟨unclosed_iff, fun s k r => ⟨closeSlot_of_absent r, fun slot found =>
    ⟨closeSlot_of_closed r found, ?_⟩⟩, fun s k slot sorted => ⟨reclaimable_eq_sum s,
      pressureHolds_iff sorted, (evaluatePressure_keeps (Q := fun _ => True) (fun _ _ h => h) s sorted
        trivial).2, evaluatePressure_quiet, ?_⟩⟩
  · rintro unclosed c rfl
    rw [closeSlot_of_unclosed r found unclosed]
    cases r <;> rfl
  · intro holds found unclosed first
    obtain ⟨j, v, rest, oldest, at_j, unclosedJ⟩ := oldest_of_pressure sorted holds
    have eq : tableFirst s.unclosedSlots = some k := (unclosedSlots_first sorted k slot found unclosed).2 first
    obtain rfl : j = k := by
      rw [oldest] at eq
      exact Option.some.inj eq
    rw [evaluatePressure_step sorted holds oldest]
    have sortedT := pressureClose_slotsSorted (n := j) sorted
    refine ⟨rfl, ?_, ?_⟩
    · exact (evaluatePressure_keeps (Q := fun t => t.flag .pressure = true)
        (fun k s set => pressureClose_flagsKept k s _ set) _ sortedT (pressureClose_flag j s)).1
    · obtain ⟨v, at_j, closed, reason, contributors⟩ := pressureClose_closes found unclosed
      have kept := (evaluatePressure_keeps (Q := ClosedKept (pressureClose j s))
        (fun k s kept => kept.trans (pressureClose_closedKept k s)) _ sortedT (.refl _)).1
      obtain ⟨w, at_j, closed, same, sameList⟩ := kept j v at_j closed
      exact ⟨w, at_j, closed, same.trans reason, sameList.trans contributors⟩

end Sys2Proof.Machine

/-! PROOFS (the other statements). The release queues: what a Release Link does between its looks at BUSY,
the hand-over of a SET, INHIBIT, and the settings of the Release Links (O42, O44, O45, O46). -/

namespace Sys2Proof.Machine

/-! ## One queue changed -/

/-- A change of a queue says what it does to the queue that stands there. -/
theorem State.modifyQueue_congr {s : State} {d : Destination} {f g : ReleaseQueue → ReleaseQueue}
    (same : f (s.release.queue d) = g (s.release.queue d)) : s.modifyQueue d f = s.modifyQueue d g := by
  rw [State.modifyQueue, same, State.modifyQueue]

theorem State.modifyQueue_of_fixed {s : State} {d : Destination} {f : ReleaseQueue → ReleaseQueue}
    (fixed : f (s.release.queue d) = s.release.queue d) : s.modifyQueue d f = s := by
  rw [State.modifyQueue, fixed]
  cases d <;> rfl

theorem State.modifyQueue_modifyQueue (s : State) (d : Destination) (f g : ReleaseQueue → ReleaseQueue) :
    (s.modifyQueue d f).modifyQueue d g = s.modifyQueue d fun q => g (f q) := by
  cases d <;> rfl

@[simp] theorem State.enabled_modifyQueue (s : State) (d : Destination) (f : ReleaseQueue → ReleaseQueue)
    (l : RelId) : (s.modifyQueue d f).enabled l = s.enabled l := by
  cases d <;> cases l <;> rfl

@[simp] theorem State.busy_modifyQueue (s : State) (d : Destination) (f : ReleaseQueue → ReleaseQueue)
    (l : RelId) : (s.modifyQueue d f).busy l = s.busy l := by
  cases l <;> rfl

@[simp] theorem State.enabled_setBusy (s : State) (l m : RelId) (b : Bool) :
    (s.setBusy l b).enabled m = s.enabled m := by
  cases l <;> cases m <;> rfl

@[simp] theorem State.inhibit_setBusy (s : State) (l : RelId) (b : Bool) :
    (s.setBusy l b).pins.inhibit = s.pins.inhibit := by cases l <;> rfl

@[simp] theorem State.release_setBusy (s : State) (l : RelId) (b : Bool) :
    (s.setBusy l b).release = s.release := by cases l <;> rfl

@[simp] theorem State.busy_setBusy (s : State) (l : RelId) (b : Bool) : (s.setBusy l b).busy l = b := by
  cases l <;> rfl

@[simp] theorem State.linkState_setBusy (s : State) (l : RelId) (b : Bool) :
    (s.setBusy l b).linkState l = s.linkState l := by
  simp [State.linkState]

/-! ## The looks at BUSY -/

/-- A queue whose link has looked at its BUSY pin (R148). -/
def ReleaseQueue.looked (busy : Bool) (q : ReleaseQueue) : ReleaseQueue :=
  { q with sending := q.sending || (!q.sets.isEmpty && !busy) }

/-- An enabled link that is not inhibited looks at its BUSY pin. -/
theorem lookAtBusy_eq {s : State} {l : RelId} (enabled : s.enabled l = true)
    (open_ : s.pins.inhibit = false) :
    lookAtBusy l s = s.modifyQueue l.destination (ReleaseQueue.looked (s.busy l)) := by
  unfold lookAtBusy
  dsimp only
  split
  next begins =>
    simp only [Bool.and_eq_true, Bool.not_eq_true'] at begins
    obtain ⟨⟨⟨_, _⟩, free⟩, waits⟩ := begins
    exact State.modifyQueue_congr (by simp [ReleaseQueue.looked, free, waits])
  next stays =>
    refine (State.modifyQueue_of_fixed ?_).symm
    have same : ((s.release.queue l.destination).sending ||
        (!(s.release.queue l.destination).sets.isEmpty && !s.busy l)) =
        (s.release.queue l.destination).sending := by
      revert stays
      rw [enabled, open_]
      cases (s.release.queue l.destination).sending <;> cases s.busy l <;>
        cases (s.release.queue l.destination).sets.isEmpty <;> simp
    rw [ReleaseQueue.looked, same]

theorem linkState_cases (s : State) (l : RelId) (q : ReleaseQueue)
    (queue : q = s.release.queue l.destination) :
    (s.linkState l = .disabled ↔ s.enabled l = false) ∧
    (s.linkState l = .inhibited ↔ s.enabled l = true ∧ s.pins.inhibit = true) ∧
    (s.linkState l = .sending ↔ s.enabled l = true ∧ s.pins.inhibit = false ∧ q.sending = true) ∧
    (s.linkState l = .paused ↔
      s.enabled l = true ∧ s.pins.inhibit = false ∧ q.sending = false ∧ q.sets ≠ []) := by
  subst queue
  unfold State.linkState
  dsimp only
  split
  · simp_all
  split
  · simp_all
  split
  · simp_all
  split <;> simp_all

/-- The end of a transmission takes the SET from the head, and the link looks at its pin. -/
theorem exec_transmissionEnd {s : State} {l : RelId} (atRest : s.AtRest)
    (sending : s.linkState l = .sending) :
    exec (.transmissionEnd l) s =
      .next (s.modifyQueue l.destination fun q => q.sentHead.looked (s.busy l)) := by
  obtain ⟨_, _, states, _⟩ := linkState_cases s l _ rfl
  obtain ⟨enabled, open_, _⟩ := states.1 sending
  refine (event_at_rest atRest _).trans (congrArg _ ?_)
  rw [transmissionEnd, if_pos sending, lookAtBusy_eq ((s.enabled_modifyQueue ..).trans enabled) open_,
    State.modifyQueue_modifyQueue]
  rfl

/-- A change of a pin's level of a part at rest does what it does, and nothing else. -/
theorem answer_at_rest {s : State} (atRest : s.AtRest) (f : State → State) :
    answer (f s.atOnce) = .next (f s) := by
  rw [answer, atOnce_of_none atRest.2]

theorem exec_busyDeassert {s : State} {l : RelId} (atRest : s.AtRest) :
    exec (.busyDeassert l) s = .next (if s.linkState l = .paused then
      (s.setBusy l false).modifyQueue l.destination fun q => { q with sending := true }
      else s.setBusy l false) := by
  refine (answer_at_rest atRest _).trans (congrArg _ ?_)
  have out : (s.setBusy l false).inReset = false := by cases l <;> exact atRest.1
  rw [busyDeassert, outOfReset, out, if_neg (by decide), State.linkState_setBusy]
  split
  next paused =>
    obtain ⟨_, _, _, states⟩ := linkState_cases s l _ rfl
    obtain ⟨enabled, open_, free, waits⟩ := states.1 paused
    rw [lookAtBusy_eq ((s.enabled_setBusy ..).trans enabled) ((s.inhibit_setBusy ..).trans open_)]
    refine State.modifyQueue_congr ?_
    simp [ReleaseQueue.looked, waits]
  next => rfl

/-- Settles O44: the looks at BUSY, at the end of a transmission and at the deassertion of the pin. -/
theorem releaseLinksSendBetweenBusyLooks : Obligations.ReleaseLinksSendBetweenBusyLooks := by
  refine ⟨?_, ?_⟩
  · rintro s l q rfl
    obtain ⟨disabled, inhibited, sending, paused⟩ := linkState_cases s l _ rfl
    refine ⟨disabled, inhibited, sending, paused, fun free => ?_, fun o rest sends head => ?_⟩
    · rw [State.releaseLineFrame, free]; rfl
    · rw [State.releaseLineFrame, if_pos sends, head]; rfl
  · rintro s l q atRest rfl
    obtain ⟨_, _, sending, paused⟩ := linkState_cases s l _ rfl
    refine ⟨answer_at_rest atRest (·.setBusy l true), fun o rest enabled open_ sends head => ?_,
      fun enabled open_ free waits => ?_, fun other => ?_⟩
    · rw [exec_transmissionEnd atRest (sending.2 ⟨enabled, open_, sends⟩)]
      refine congrArg _ (State.modifyQueue_congr ?_)
      simp [ReleaseQueue.looked, ReleaseQueue.sentHead, head, bump, Config.counterMax]
    · rw [exec_busyDeassert atRest, if_pos (paused.2 ⟨enabled, open_, free, waits⟩)]
      exact congrArg _ (State.modifyQueue_congr (by rw [State.release_setBusy]))
    · rw [exec_busyDeassert atRest, if_neg]
      rw [paused]
      rintro ⟨enabled, open_, free, waits⟩
      rw [enabled, open_, free] at other
      simp [waits] at other

/-! ## Cutting and discarding -/

theorem ReleaseQueue.cut_of_free {q : ReleaseQueue} (free : q.sending = false) : q.cut = q := by
  rw [ReleaseQueue.cut, free]; rfl

theorem ReleaseQueue.cut_of_sending {q : ReleaseQueue} {o : OutSet} {rest : List OutSet}
    (sends : q.sending = true) (sets : q.sets = o :: rest) : q.cut =
      { sets := rest, sending := false, counters := { q.counters with cut := bump q.counters.cut } } := by
  rw [ReleaseQueue.cut, if_pos sends, sets]; rfl

theorem ReleaseQueue.inhibit_of_free {q : ReleaseQueue} (free : q.sending = false) : q.inhibit =
    { q with sets := [], counters :=
      { q.counters with inhibitedDrops := bumpBy q.sets.length q.counters.inhibitedDrops } } := by
  rw [ReleaseQueue.inhibit, ReleaseQueue.cut_of_free free]

theorem ReleaseQueue.flush_of_free {q : ReleaseQueue} (free : q.sending = false) : q.flush =
    { q with sets := [], counters :=
      { q.counters with flushed := bumpBy q.sets.length q.counters.flushed } } := by
  rw [ReleaseQueue.flush, ReleaseQueue.cut_of_free free]

theorem ReleaseQueue.inhibit_of_sending {q : ReleaseQueue} {o : OutSet} {rest : List OutSet}
    (sends : q.sending = true) (sets : q.sets = o :: rest) : q.inhibit =
      { sets := [], sending := false, counters :=
        { q.counters with
          cut := bump q.counters.cut
          inhibitedDrops := bumpBy rest.length q.counters.inhibitedDrops } } := by
  rw [ReleaseQueue.inhibit, ReleaseQueue.cut_of_sending sends sets]

theorem ReleaseQueue.flush_of_sending {q : ReleaseQueue} {o : OutSet} {rest : List OutSet}
    (sends : q.sending = true) (sets : q.sets = o :: rest) : q.flush =
      { sets := [], sending := false, counters :=
        { q.counters with
          cut := bump q.counters.cut
          flushed := bumpBy rest.length q.counters.flushed } } := by
  rw [ReleaseQueue.flush, ReleaseQueue.cut_of_sending sends sets]

/-- Settles O45: each of the three queues is cut and discarded, and the line chooses. -/
theorem inhibitEmptiesTheReleaseQueues : Obligations.InhibitEmptiesTheReleaseQueues := by
  intro s atRest
  refine ⟨⟨{ s with
    pins := { s.pins with inhibit := true }
    release := { s.release with
      queue0 := s.release.queue0.inhibit
      queue1 := s.release.queue1.inhibit
      commandQueue := s.release.commandQueue.inhibit } }, ?_, rfl, rfl, rfl, ?_⟩,
    answer_at_rest atRest (·.setInhibit false)⟩
  · have out : (s.setInhibit true).inReset = false := atRest.1
    refine (answer_at_rest atRest _).trans (congrArg _ ?_)
    rw [inhibitAssert, outOfReset, out, if_neg (by decide)]
    rfl
  · rintro d q rfl
    have inhibited : ({ s.release with
      queue0 := s.release.queue0.inhibit
      queue1 := s.release.queue1.inhibit
      commandQueue := s.release.commandQueue.inhibit } : Release).queue d =
        (s.release.queue d).inhibit := by cases d <;> rfl
    rw [inhibited]
    exact ⟨rfl, fun free => ReleaseQueue.inhibit_of_free free,
      fun o rest sends sets => ReleaseQueue.inhibit_of_sending sends sets⟩

/-! ## The settings of the Release Links -/

section
variable (s : State) (l m : RelId) (c : Nat) (p : Processor)

theorem applySetting_withProcessor :
    applySetting l c (s.withProcessor p) = (applySetting l c s).withProcessor p := by
  have enabled : (s.withProcessor p).enabled l = s.enabled l := by cases l <;> rfl
  unfold applySetting enableLink disableLink
  rw [enabled]
  split
  · rfl
  · cases l <;> rfl
  · split
    · cases l <;> rfl
    · rfl

/-- A setting of a link changes the Release Links alone. -/
theorem applySetting_release :
    applySetting l c s = { s with release := (applySetting l c s).release } := by
  cases l <;> unfold applySetting enableLink disableLink <;> split <;> (try split) <;> rfl

theorem applySetting_commandQueue :
    (applySetting l c s).release.commandQueue = s.release.commandQueue := by
  cases l <;> unfold applySetting enableLink disableLink <;> split <;> (try split) <;> rfl

/-- A setting of one link leaves the other as it was. -/
theorem applySetting_other (other : m ≠ l) : (applySetting l c s).enabled m = s.enabled m ∧
    (applySetting l c s).release.queue m.destination = s.release.queue m.destination := by
  cases l <;> cases m <;> first | exact absurd rfl other | skip
  all_goals unfold applySetting enableLink disableLink; split <;> (try split) <;> exact ⟨rfl, rfl⟩

theorem switchBytes_withProcessor : switchBytes l (s.withProcessor p) = switchBytes l s := by
  cases l <;> rfl

/-- The switch and the state of a link are two bytes. -/
theorem switchBytes_eq : switchBytes l s =
    [if s.enabled l then 0#8 else 1#8, BitVec.ofNat 8 (s.linkState l).code] := by
  rw [switchBytes]
  cases s.enabled l <;> rfl

end

/-- What a setting makes of its own link. -/
def SettingApplied (c : Nat) (wasEnabled : Bool) (q : ReleaseQueue) (enabled : Bool)
    (r : ReleaseQueue) : Prop :=
  (c = 0 → enabled = wasEnabled ∧ r = q) ∧ (c = 1 → enabled = true ∧ r = q) ∧
  (c = 2 → enabled = false ∧ (wasEnabled = false → r = q) ∧ (wasEnabled = true → r = q.flush))

theorem applySetting_applied (s : State) (l : RelId) (c : Nat) :
    SettingApplied c (s.enabled l) (s.release.queue l.destination) ((applySetting l c s).enabled l)
      ((applySetting l c s).release.queue l.destination) := by
  refine ⟨?_, ?_, ?_⟩
  · rintro rfl; exact ⟨rfl, rfl⟩
  · rintro rfl; cases l <;> exact ⟨rfl, rfl⟩
  · rintro rfl
    simp only [applySetting, disableLink]
    cases on : s.enabled l
    · simp [on]
    · cases l <;> simp [RelId.destination, State.modifyQueue, State.setEnabled, State.enabled,
        Release.queue, Release.setQueue]

/-- Settles O46: the settings are applied link by link, and each leaves the other link as it was. -/
theorem releaseLinkSettingsSwitchAndFlush : Obligations.ReleaseLinkSettingsSwitchAndFlush := by
  intro s r rest a b executes fields
  have first : fieldAt r.fields 0 1 = a.toNat := by rw [fields]; simp [fieldAt, bytesAt, beNat]
  have second : fieldAt r.fields 1 1 = b.toNat := by rw [fields]; simp [fieldAt, bytesAt, beNat]
  have length : decide (r.fields.length = 2) = true := by rw [fields]; rfl
  refine ⟨fun large => ?_, fun smallA smallB => ?_⟩
  · refine (answer_runRequest executes configureReleaseLink).trans ?_
    rw [configureReleaseLink, checks_badField length rfl (by
      rw [first, second]; rcases large with large | large <;> simp [Nat.not_le.2 large])]
    rfl
  · refine ⟨applySetting .rl1 b.toNat (applySetting .rl0 a.toNat s), ?_, ?_, ?_, ?_⟩
    · refine (answer_runRequest executes configureReleaseLink).trans (congrArg _ ?_)
      rw [configureReleaseLink, checks_pass length rfl (by rw [first, second]; simp [smallA, smallB]),
        first, second, applySetting_withProcessor, applySetting_withProcessor, conclude,
        finishRequest_withProcessor]
      rw [switchBytes_withProcessor, switchBytes_withProcessor, switchBytes_eq, switchBytes_eq]
      rfl
    · rw [applySetting_release _ .rl1, applySetting_release _ .rl0]
    · rw [applySetting_commandQueue, applySetting_commandQueue]
    · rintro l c q rfl rfl
      have applied : SettingApplied (if l = .rl0 then a else b).toNat (s.enabled l)
          (s.release.queue l.destination)
          ((applySetting .rl1 b.toNat (applySetting .rl0 a.toNat s)).enabled l)
          ((applySetting .rl1 b.toNat (applySetting .rl0 a.toNat s)).release.queue l.destination) := by
        cases l
        case rl0 =>
          obtain ⟨enabled, queue⟩ :=
            applySetting_other (applySetting .rl0 a.toNat s) .rl1 .rl0 b.toNat (by decide)
          rw [enabled, queue]
          exact applySetting_applied s .rl0 a.toNat
        case rl1 =>
          have applied := applySetting_applied (applySetting .rl0 a.toNat s) .rl1 b.toNat
          obtain ⟨enabled, queue⟩ := applySetting_other s .rl0 .rl1 a.toNat (by decide)
          rwa [enabled, queue] at applied
      obtain ⟨keeps, enables, disables⟩ := applied
      refine ⟨keeps, enables, fun two => ?_⟩
      obtain ⟨disabled, wasOff, wasOn⟩ := disables two
      refine ⟨disabled, wasOff, fun on => ?_⟩
      rw [wasOn on]
      exact ⟨rfl, fun free => ReleaseQueue.flush_of_free free,
        fun o others sends sets => ReleaseQueue.flush_of_sending sends sets⟩

/-! ## The hand-over -/

theorem destinationDisabled_link (s : State) (l : RelId) :
    s.destinationDisabled l.destination = !s.enabled l := by cases l <;> rfl

theorem destinationDisabled_of_open {s : State} {l : RelId} {p : Destination}
    (reachable : p = .cl ∨ p = l.destination ∧ s.enabled l = true) : s.destinationDisabled p = false := by
  rcases reachable with rfl | ⟨rfl, enabled⟩
  · rfl
  · rw [destinationDisabled_link, enabled]; rfl

/-- After a SET has joined the queue of a Release Link, the link looks at its pin where its queue was
empty. -/
theorem afterAppend_link (l : RelId) (wasEmpty : Bool) (s : State) :
    afterAppend l.destination wasEmpty s = if wasEmpty then lookAtBusy l s else s := by
  cases l <;> rfl

theorem afterAppend_full (p : Destination) (s : State) :
    afterAppend p false s = if p = .cl then transmitChoice s else s := by
  cases p <;> rfl

theorem handOver_room {s : State} {p : Destination} (o : OutSet) (reachable : s.destinationDisabled p = false)
    (open_ : s.pins.inhibit = false) (room : (s.release.queue p).sets.length < 32) :
    handOver p o s = afterAppend p (s.release.queue p).sets.isEmpty
      (s.modifyQueue p fun q => q.append o) := by
  rw [handOver, reachable, open_]
  exact if_pos room

theorem handOver_full {s : State} {p : Destination} (o : OutSet) (reachable : s.destinationDisabled p = false)
    (open_ : s.pins.inhibit = false) (full : ¬(s.release.queue p).sets.length < 32) :
    handOver p o s = afterAppend p false (congestion .releaseDrop (.queue p)
      (s.modifyQueue p fun q => q.dropOldest.append o)) := by
  rw [handOver, reachable, open_]
  exact if_neg full

/-- Settles O42: the hand-over's cases in their order, and what follows an append. -/
theorem handOverAppendsOrMakesRoom : Obligations.HandOverAppendsOrMakesRoom := by
  rintro s l o p q rfl
  refine ⟨?_, fun reachable inhibited free => ?_, ?_, ?_, ?_⟩
  · rintro rfl off
    exact (if_pos (by rw [destinationDisabled_link, off]; rfl)).trans (State.modifyQueue_congr rfl)
  · have discarded : handOver p o s = s.modifyQueue p fun q => (q.append o).inhibit :=
      (if_neg (by rw [destinationDisabled_of_open reachable]; decide)).trans (if_pos inhibited)
    rw [discarded]
    refine State.modifyQueue_congr ?_
    rw [ReleaseQueue.inhibit_of_free (q := ReleaseQueue.append _ o) free]
    simp [ReleaseQueue.append, bump, bumpBy, Config.counterMax]
  · rintro rfl enabled open_ room
    rw [handOver_room o (destinationDisabled_of_open (.inr ⟨rfl, enabled⟩)) open_ room,
      afterAppend_link]
    split
    next empty =>
      rw [lookAtBusy_eq ((s.enabled_modifyQueue ..).trans enabled) open_,
        State.modifyQueue_modifyQueue]
      refine State.modifyQueue_congr ?_
      have none : (s.release.queue l.destination).sets = [] := List.isEmpty_iff.1 empty
      simp [ReleaseQueue.looked, ReleaseQueue.append, none, bump, Config.counterMax]
    next filled =>
      have some : (s.release.queue l.destination).sets ≠ [] := fun none =>
        filled (List.isEmpty_iff.2 none)
      exact State.modifyQueue_congr (by
        simp [ReleaseQueue.append, some, bump, Config.counterMax])
  · rintro rfl open_ room
    rw [handOver_room o rfl open_ room]
    exact congrArg _ (State.modifyQueue_congr rfl)
  · rintro reachable open_ first second rest sets length u v rfl rfl
    have full : ¬(s.release.queue p).sets.length < 32 := by rw [sets]; simp [length]
    rw [handOver_full o (destinationDisabled_of_open reachable) open_ full, afterAppend_full]
    have dropped : (s.modifyQueue p fun q => q.dropOldest.append o) = s.modifyQueue p fun _ =>
        { s.release.queue p with
          sets := (if (s.release.queue p).sending then first :: rest else second :: rest) ++ [o]
          counters := { (s.release.queue p).counters with
            dropped := bump (s.release.queue p).counters.dropped
            queued := bump (s.release.queue p).counters.queued } } := by
      refine State.modifyQueue_congr ?_
      rw [ReleaseQueue.dropOldest, sets]
      split <;> rfl
    rw [dropped]
    rfl

end Sys2Proof.Machine

/-! PROOFS (the other statements). The Assembler: the take with the boundary switch, the consideration of
the views, and the end of an assembly (O39, O40, O43). -/

namespace Sys2Proof.Machine

/-! ## The views, one by one -/

/-- A view is read from the views alone. -/
theorem State.view_of_views {s t : State} (same : t.views = s.views) (v : ViewId) :
    t.view v = s.view v := by rw [State.view, same, State.view]

/-- Operations that change one view each change every view of a list. -/
theorem foldl_view {g : State → ViewId → State} {f : View → View}
    (self : ∀ s v, (g s v).view v = f (s.view v)) (other : ∀ s v w, w ≠ v → (g s v).view w = s.view w)
    {l : List ViewId} (different : l.Nodup) (s : State) (v : ViewId) :
    (l.foldl g s).view v = if v ∈ l then f (s.view v) else s.view v := by
  induction l generalizing s with
  | nil => rfl
  | cons a l ih =>
    obtain ⟨new, different⟩ := List.nodup_cons.1 different
    rw [List.foldl_cons, ih different]
    by_cases same : v = a
    · subst same
      rw [if_neg new, self, if_pos (List.mem_cons_self ..)]
    · rw [other s a v same]
      simp [same]

/-! ## The boundary switch (R138) -/

/-- The boundary switch of one view's descriptors. -/
def View.switched (second : Nat) (v : View) : View :=
  match v.staged with
  | some st => if st.effectiveSecond ≤ second then v.takeEffect st.content else v
  | none => v

theorem View.switched_of_due {second : Nat} {v : View} {st : Staged} (staged : v.staged = some st)
    (due : st.effectiveSecond ≤ second) : v.switched second = v.takeEffect st.content := by
  simp [View.switched, staged, due]

/-- Nothing is staged whose effective second is reached. -/
def View.Waits (second : Nat) (v : View) : Prop :=
  v.staged = none ∨ ∃ st, v.staged = some st ∧ 0 < st.effectiveSecond ∧ second < st.effectiveSecond

theorem View.switched_of_waits {second : Nat} {v : View} (waits : v.Waits second) :
    v.switched second = v := by
  obtain none | ⟨st, staged, _, later⟩ := waits
  · simp [View.switched, none]
  · simp [View.switched, staged, later]

section
variable {second : Nat} {s : State} {v : ViewId}

/-- A staged descriptor whose second is reached takes effect, with its notice. -/
theorem switchView_of_due {st : Staged} (staged : (s.view v).staged = some st)
    (due : st.effectiveSecond ≤ second) : switchView second s v = raiseNotice .view (.view v)
      (((s.view v).revision + 1).toNat * 256 + if st.content = none then 1 else 0)
      (s.modifyView v fun w => w.takeEffect st.content) := by
  simp only [switchView, staged, if_pos due, State.view_modifyView_self, View.takeEffect,
    Option.isNone_iff_eq_none]

theorem switchView_of_waits (waits : (s.view v).Waits second) : switchView second s v = s := by
  obtain none | ⟨st, staged, _, later⟩ := waits
  · simp only [switchView, none]
  · simp only [switchView, staged, if_neg (Nat.not_le.2 later)]

/-- A staged descriptor is due, or the view waits. -/
theorem due_or_waits (second : Nat) (w : View) :
    (∃ st, w.staged = some st ∧ st.effectiveSecond ≤ second) ∨ w.Waits second := by
  cases staged : w.staged with
  | none => exact .inr (.inl staged)
  | some st =>
    by_cases due : st.effectiveSecond ≤ second
    · exact .inl ⟨st, rfl, due⟩
    · exact .inr (.inr ⟨st, staged, by omega, by omega⟩)

end

theorem switchView_self (second : Nat) (s : State) (v : ViewId) :
    (switchView second s v).view v = (s.view v).switched second := by
  obtain ⟨st, staged, due⟩ | waits := due_or_waits second (s.view v)
  · rw [switchView_of_due staged due, State.view_of_views (raiseNotice_views ..),
      State.view_modifyView_self, View.switched_of_due staged due]
  · rw [switchView_of_waits waits, View.switched_of_waits waits]

theorem switchView_other (second : Nat) (s : State) (v w : ViewId) (other : w ≠ v) :
    (switchView second s v).view w = s.view w := by
  obtain ⟨st, staged, due⟩ | waits := due_or_waits second (s.view v)
  · rw [switchView_of_due staged due, State.view_of_views (raiseNotice_views ..),
      State.view_modifyView_ne s other]
  · rw [switchView_of_waits waits]

theorem boundarySwitch_view (second : Nat) (s : State) (v : ViewId) :
    (boundarySwitch second s).view v = (s.view v).switched second := by
  have every : v ∈ ViewId.all := by cases v <;> decide
  exact (foldl_view (switchView_self second) (switchView_other second) (by decide) s v).trans
    (if_pos every)

/-! ## The take (R121, R128) -/

/-- A busy Assembler, or an empty queue, takes nothing. -/
theorem takeAndReevaluate_idle {s : State}
    (nothing : s.assembler.current ≠ none ∨ s.window.assemblyQueue = []) : takeAndReevaluate s = s := by
  have idle : takeIfIdle s = (s, false) := by
    unfold takeIfIdle
    split
    next current queue =>
      obtain busy | empty := nothing
      · exact absurd current busy
      · rw [queue] at empty; cases empty
    next => rfl
  simp only [takeAndReevaluate, idle]
  rfl

theorem takeAndReevaluate_taken {s : State} {n : Nat} {rest : List Nat}
    (idle : s.assembler.current = none) (queue : s.window.assemblyQueue = n :: rest) :
    takeAndReevaluate s =
      if (takeHead n rest s).2 then reevaluateAfterTake (takeHead n rest s).1 else (takeHead n rest s).1 := by
  have taken : takeIfIdle s = takeHead n rest s := by simp only [takeIfIdle, idle, queue]
  simp only [takeAndReevaluate, taken]

/-- The take of a slot in the map (R121). -/
theorem takeHead_eq {s u v : State} {n : Nat} {rest : List Nat} {slot : Slot}
    (found : s.slot? n = some slot)
    (taken : u = { s with
      window := { s.window with
        assemblyQueue := rest
        slots := tableInsert n { slot with state := .assembling } s.window.slots }
      assembler := { s.assembler with current := some n, dispositions := [] } })
    (switched : v = if n % s.grid.rate = 0 then boundarySwitch (n / s.grid.rate) u else u) :
    takeHead n rest s = (considerViews n ViewId.all (dispositionPass n slot.contributors v).1,
      (dispositionPass n slot.contributors v).2) := by
  have modified : tableModify n (fun slot => { slot with state := .assembling }) s.window.slots =
      tableInsert n { slot with state := .assembling } s.window.slots := by
    rw [tableModify, show tableFind n s.window.slots = some slot from found]
  subst taken switched
  unfold takeHead
  dsimp only
  rw [found, modified]
  rfl

/-- A re-evaluation that makes some slot READY is followed by the walk; one that makes none changes
nothing. -/
theorem reevaluateAfterTake_cases {w : State} (sorted : tableSorted w.window.slots) :
    ((∃ k a b, w.slot? k = some a ∧ (evaluateAll w).1.slot? k = some b ∧ a ≠ b) →
      reevaluateAfterTake w = completionWalk (evaluateAll w).1) ∧
    ((∀ k, (evaluateAll w).1.slot? k = w.slot? k) → reevaluateAfterTake w = w) := by
  refine ⟨?_, fun same => ?_⟩
  · rintro ⟨k, a, b, before, after, differ⟩
    refine if_pos ((evaluateAll_any sorted).2 ?_)
    by_contra unready
    have kept := evaluateAll_unready sorted fun k slot found ready => unready ⟨k, slot, found, ready⟩
    rw [kept, before] at after
    exact differ (Option.some.inj after)
  · have unready : ∀ k slot, w.slot? k = some slot →
        ¬becomesReady w.grid.rate k w.sources slot = true := by
      intro k slot found ready
      have after : (evaluateAll w).1.slot? k =
          (w.slot? k).map (evaluated w.grid.rate k w.sources) :=
        tableFind_map (fun n v => evaluated w.grid.rate n w.sources v) k _
      rw [same, found, Option.map_some, evaluated_ready ready] at after
      obtain ⟨opened, _⟩ := becomesReady_iff.1 ready
      rw [congrArg Slot.state (Option.some.inj after)] at opened
      cases opened
    have none : (evaluateAll w).2 = false := Bool.eq_false_iff.2 fun some => by
      obtain ⟨k, slot, found, ready⟩ := (evaluateAll_any sorted).1 some
      exact unready k slot found ready
    exact (if_neg (by rw [none]; decide)).trans (evaluateAll_unready sorted unready)

/-- Settles O39: the views switch one by one, and the take's steps are those of its definition. -/
theorem takeSwitchesDueViewsAndMakesThePass : Obligations.TakeSwitchesDueViewsAndMakesThePass := by
  have reached {second : Nat} {st : Staged}
      (due : st.effectiveSecond = 0 ∨ st.effectiveSecond ≤ second) : st.effectiveSecond ≤ second := by
    omega
  refine ⟨fun s second => ⟨rfl, fun v => ⟨fun st staged due => ?_, switchView_of_waits⟩⟩,
    fun s second v => ⟨fun st staged due => ?_, fun waits => ?_⟩,
    fun s => ⟨rfl, takeAndReevaluate_idle⟩, ?_⟩
  · exact switchView_of_due staged (reached due)
  · rw [boundarySwitch_view, View.switched_of_due staged (reached due)]; rfl
  · rw [boundarySwitch_view, View.switched_of_waits waits]
  · rintro s u v _ n rest slot _ sorted idle queue found taken switched rfl rfl
    have head := takeHead_eq (rest := rest) found taken switched
    have kept : tableSorted (takeHead n rest s).1.window.slots := by
      rw [takeHead_window]; exact tableModify_sorted sorted
    rw [takeAndReevaluate_taken idle queue]
    rw [head] at kept ⊢
    refine ⟨fun calm => if_neg (by simp [calm]), fun stall => ?_⟩
    obtain ⟨walks, stays⟩ := reevaluateAfterTake_cases kept
    dsimp only
    rw [if_pos stall]
    exact ⟨walks, stays⟩

/-! ## The consideration of the views (R141) -/

/-- The view selects the instant. -/
def State.Selects (s : State) (n : Nat) (v : ViewId) : Prop :=
  ∃ d, (s.view v).current = some d ∧ n % s.grid.rate % d.divisor = 0

/-- The view is held back: complete-only, with a listed source that is not PRESENT. -/
def State.Lacks (s : State) (v : ViewId) : Prop :=
  ∃ d, (s.view v).current = some d ∧ d.completeOnly = true ∧
    ∃ e ∈ d.sources, ∀ r rec, s.dispositionOf e.source = some r → r.disposition ≠ .present rec

theorem presentInList_iff {s : State} {i : Nat} : s.presentInList i = false ↔
    ∀ r rec, s.dispositionOf i = some r → r.disposition ≠ .present rec := by
  unfold State.presentInList
  split
  next i id rec found =>
    rw [found]
    simp
  next other =>
    simp only [true_iff]
    rintro ⟨i, id, x⟩ rec found rfl
    exact other _ _ _ found

/-- A view held back is counted (R141). -/
def State.skip (s : State) (v : ViewId) : State :=
  s.modifyView v fun w => { w with skippedIncomplete := bump w.skippedIncomplete }

section
variable {n : Nat} {v : ViewId} {rest : List ViewId} {s : State}

theorem considerViews_of_unselected (unselected : ¬s.Selects n v) :
    considerViews n (v :: rest) s = considerViews n rest s := by
  rw [considerViews]
  split
  next => rfl
  next d current => exact if_pos fun selects => unselected ⟨d, current, selects⟩

theorem lacks_iff {d : Descriptor} (current : (s.view v).current = some d) : s.Lacks v ↔
    (d.completeOnly && !(d.sources.all fun e => s.presentInList e.source)) = true := by
  have missing : (!(d.sources.all fun e => s.presentInList e.source)) = true ↔
      ∃ e ∈ d.sources, ∀ r rec, s.dispositionOf e.source = some r → r.disposition ≠ .present rec := by
    simp only [Bool.not_eq_true', List.all_eq_false, Bool.not_eq_true, presentInList_iff]
  rw [Bool.and_eq_true, missing]
  constructor
  · rintro ⟨d', current', only, absent⟩
    obtain rfl := Option.some.inj (current.symm.trans current')
    exact ⟨only, absent⟩
  · rintro ⟨only, absent⟩
    exact ⟨d, current, only, absent⟩

theorem considerViews_of_lacking (selects : s.Selects n v) (lacks : s.Lacks v) :
    considerViews n (v :: rest) s = considerViews n rest (s.skip v) := by
  obtain ⟨d, current, divides⟩ := selects
  rw [considerViews, current]
  exact (if_neg (not_not.2 divides)).trans (if_pos ((lacks_iff current).1 lacks))

theorem considerViews_of_chosen (selects : s.Selects n v) (whole : ¬s.Lacks v) :
    considerViews n (v :: rest) s =
      { s with assembler := { s.assembler with nextView := some v } } := by
  obtain ⟨d, current, divides⟩ := selects
  rw [considerViews, current]
  exact (if_neg (not_not.2 divides)).trans (if_neg fun lacking => whole ((lacks_iff current).2 lacking))

/-- The count of a view held back shows in that view alone, and in no descriptor. -/
theorem skip_current (w : ViewId) : ((s.skip v).view w).current = (s.view w).current := by
  by_cases same : w = v
  · subst same; rw [State.skip, State.view_modifyView_self]
  · rw [State.skip, State.view_modifyView_ne s same]

theorem skip_selects (w : ViewId) : (s.skip v).Selects n w ↔ s.Selects n w := by
  rw [State.Selects, skip_current]; rfl

theorem skip_lacks (w : ViewId) : (s.skip v).Lacks w ↔ s.Lacks w := by
  rw [State.Lacks, skip_current]; rfl

end

/-- How far the consideration of a list of views goes: each view before the one chosen is not selected, or
held back and counted, and no other view changes. -/
theorem considerViews_reaches (n : Nat) {views : List ViewId} (different : views.Nodup) (s : State) :
    ∃ before after, views = before ++ after ∧
      (considerViews n views s).assembler.nextView = after.head? ∧
      (∀ w ∈ before, s.Selects n w → s.Lacks w) ∧
      (∀ v, after.head? = some v → s.Selects n v ∧ ¬s.Lacks v) ∧
      (∀ w ∈ before, s.Selects n w → s.Lacks w → (considerViews n views s).view w =
        { s.view w with skippedIncomplete := bump (s.view w).skippedIncomplete }) ∧
      ∀ w, w ∉ before ∨ ¬s.Selects n w ∨ ¬s.Lacks w →
        (considerViews n views s).view w = s.view w := by
  induction views generalizing s with
  | nil => exact ⟨[], [], rfl, rfl, by simp, by simp, by simp, fun _ _ => rfl⟩
  | cons v rest ih =>
    obtain ⟨new, different⟩ := List.nodup_cons.1 different
    by_cases selects : s.Selects n v
    · by_cases lacks : s.Lacks v
      · obtain ⟨before, after, whole, next, passed, chosen, counted, kept⟩ := ih different (s.skip v)
        simp only [skip_selects, skip_lacks] at passed chosen counted kept
        have unlisted : v ∉ before := fun mem => new (whole ▸ List.mem_append_left _ mem)
        have elsewhere (w : ViewId) (other : w ≠ v) : (s.skip v).view w = s.view w :=
          State.view_modifyView_ne s other _
        rw [considerViews_of_lacking selects lacks]
        refine ⟨v :: before, after, by rw [whole]; rfl, next, ?_, chosen, ?_, ?_⟩
        · rintro w mem selected
          obtain rfl | mem := List.mem_cons.1 mem
          · exact lacks
          · exact passed w mem selected
        · rintro w mem selected lacking
          obtain rfl | mem := List.mem_cons.1 mem
          · rw [kept w (.inl unlisted)]
            exact State.view_modifyView_self ..
          · rw [counted w mem selected lacking, elsewhere w fun same => unlisted (same ▸ mem)]
        · intro w out
          have other : w ≠ v := by
            rintro rfl
            obtain out | out | out := out
            · exact out (List.mem_cons_self ..)
            · exact out selects
            · exact out lacks
          rw [kept w (out.imp_left fun out mem => out (List.mem_cons_of_mem _ mem)), elsewhere w other]
      · rw [considerViews_of_chosen selects lacks]
        refine ⟨[], v :: rest, rfl, rfl, by simp, ?_, by simp, fun _ _ => rfl⟩
        rintro w head
        obtain rfl := Option.some.inj head
        exact ⟨selects, lacks⟩
    · obtain ⟨before, after, whole, next, passed, chosen, counted, kept⟩ := ih different s
      rw [considerViews_of_unselected selects]
      refine ⟨v :: before, after, by rw [whole]; rfl, next, ?_, chosen, ?_, ?_⟩
      · rintro w mem selected
        obtain rfl | mem := List.mem_cons.1 mem
        · exact absurd selected selects
        · exact passed w mem selected
      · rintro w mem selected lacking
        obtain rfl | mem := List.mem_cons.1 mem
        · exact absurd selected selects
        · exact counted w mem selected lacking
      · intro w out
        by_cases same : w = v
        · subst same; exact kept w (.inr (.inl selects))
        · exact kept w (out.imp_left fun out mem => out (List.mem_cons_of_mem _ mem))

/-- A list without repeats is cut in one place by the head of its second part. -/
theorem append_cut {before after before' after' : List ViewId}
    (different : (before ++ after).Nodup) (whole : before ++ after = before' ++ after')
    (head : after.head? = after'.head?) : before = before' := by
  cases after with
  | nil =>
    cases after' with
    | nil => simpa using whole
    | cons v l => cases head
  | cons v l =>
    cases after' with
    | nil => cases head
    | cons w l' =>
      obtain rfl : v = w := Option.some.inj head
      have at_v {a b : List ViewId} (nodup : (a ++ v :: b).Nodup) : (a ++ v :: b).idxOf v = a.length := by
        have new : v ∉ a := fun mem => List.disjoint_of_nodup_append nodup mem (List.mem_cons_self ..)
        rw [List.idxOf_append_of_notMem new, List.idxOf_cons_self, Nat.add_zero]
      have length : before.length = before'.length := by
        rw [← at_v different, whole, at_v (whole ▸ different)]
      exact (List.append_inj whole length).1

/-- Settles O40: the consideration goes as far as the first selected view that is not held back. -/
theorem viewsAreConsideredInOrder : Obligations.ViewsAreConsideredInOrder := by
  rintro n views s _ selects lacks different rfl selects_iff lacks_iff
  obtain rfl : selects = s.Selects n := funext fun v => propext (selects_iff v)
  obtain rfl : lacks = s.Lacks := funext fun v => propext (lacks_iff v)
  obtain ⟨before, after, whole, next, passed, chosen, counted, kept⟩ :=
    considerViews_reaches n different s
  refine ⟨fun none v mem selected => ?_, fun v some => ?_, fun before' after' whole' next' => ?_⟩
  · rw [List.head?_eq_none_iff.1 (next.symm.trans none), List.append_nil] at whole
    exact passed v (whole ▸ mem) selected
  · have head := next.symm.trans some
    obtain ⟨l, rfl⟩ := List.head?_eq_some_iff.1 head
    obtain ⟨selected, notHeld⟩ := chosen v head
    exact ⟨before, l, whole, selected, notHeld, passed⟩
  · obtain rfl := append_cut (whole ▸ different) (whole.symm.trans whole') (next.symm.trans next')
    exact ⟨counted, kept⟩

/-! ## The end of an assembly (R99, R123) -/

/-- An item is found exactly at the keys of a table. -/
theorem tableFind_ne_none {α : Type} {k : Nat} {t : Table α} :
    tableFind k t ≠ none ↔ k ∈ t.map (·.1) := by
  induction t with
  | nil => simp [tableFind]
  | cons p t ih =>
    obtain ⟨j, v⟩ := p
    by_cases same : j = k
    · simp [tableFind, same]
    · simp [tableFind, same, ih, Ne.symm same]

theorem windowBase_none {s : State} : s.windowBase = none ↔ ∀ k, s.slot? k = none := by
  have absent : (∀ k, s.slot? k = none) ↔ ∀ k, k ∉ s.window.slots.map (·.1) :=
    forall_congr' fun k => by rw [← tableFind_ne_none]; exact not_not.symm
  rw [absent, State.windowBase, tableFirst]
  cases s.window.slots with
  | nil => simp
  | cons p t => exact iff_of_false (by simp) fun absent => absent p.1 (List.mem_cons_self ..)

theorem windowBase_some {s : State} {n : Nat} (sorted : tableSorted s.window.slots) :
    s.windowBase = some n ↔ s.slot? n ≠ none ∧ ∀ k, s.slot? k ≠ none → n ≤ k := by
  simp only [State.slot?, tableFind_ne_none, State.windowBase, tableFirst]
  revert sorted
  cases s.window.slots with
  | nil => simp
  | cons p t =>
    intro sorted
    obtain ⟨least, _⟩ := List.pairwise_cons.1 sorted
    simp only [List.head?_cons, Option.map_some, Option.some.injEq, List.map_cons, List.mem_cons]
    constructor
    · rintro rfl
      refine ⟨.inl rfl, ?_⟩
      rintro k (rfl | mem)
      · exact le_rfl
      · exact (least k mem).le
    · rintro ⟨rfl | mem, lowest⟩
      · rfl
      · exact absurd (lowest p.1 (.inl rfl)) (Nat.not_le.2 (least n mem))

/-- The assembly of instant `n` completes the entry's retirement. -/
def Entry.Retired (n : Nat) (e : Entry) : Prop :=
  e.state = .retiring ∧ ∃ x, e.receipt.newest = some x ∧ x ≤ n

theorem Entry.ended_not_retired (n : Nat) (e : Entry) : ¬e.ended.Retired n := by
  rintro ⟨state, _⟩
  cases state

theorem endIfRetired_of_retired {n : Nat} {s : State} {i : Nat} (retired : (s.entry i).Retired n) :
    endIfRetired n s i = endEntry i s := by
  obtain ⟨state, x, newest, le⟩ := retired
  simp only [endIfRetired, newest]
  exact if_pos ⟨state, le⟩

theorem endIfRetired_of_other {n : Nat} {s : State} {i : Nat} (other : ¬(s.entry i).Retired n) :
    endIfRetired n s i = s := by
  unfold endIfRetired
  dsimp only
  split
  next x newest => exact if_neg fun retired => other ⟨retired.1, x, newest, retired.2⟩
  next => rfl

theorem endEntry_entry (s : State) (i j : Nat) :
    (endEntry i s).entry j = if j = i then (s.entry i).ended else s.entry j :=
  State.entry_setEntry ..

theorem endEntry_hold (s : State) (i j : Nat) :
    (endEntry i s).hold? j = if j = i then none else s.hold? j :=
  tableFind_erase ..

/-- Ending the completed retirements of a list of entries ends those, and leaves the others. -/
theorem endRetired_entries (n : Nat) (l : List Nat) (s t : State)
    (ended : t = l.foldl (endIfRetired n) s) :
    (∀ i ∈ l, (s.entry i).Retired n → t.entry i = (s.entry i).ended ∧ t.hold? i = none) ∧
    (∀ i, i ∉ l ∨ ¬(s.entry i).Retired n → t.entry i = s.entry i ∧ t.hold? i = s.hold? i) ∧
    t = { s with sources := t.sources, assembler := t.assembler } := by
  induction l generalizing s with
  | nil => subst ended; exact ⟨by simp, fun _ _ => ⟨rfl, rfl⟩, rfl⟩
  | cons a l ih =>
    by_cases retired : (s.entry a).Retired n
    · rw [List.foldl_cons, endIfRetired_of_retired retired] at ended
      obtain ⟨ends, keeps, frame⟩ := ih _ ended
      have at_a := keeps a (.inr (by
        rw [endEntry_entry, if_pos rfl]; exact Entry.ended_not_retired n _))
      have elsewhere {i : Nat} (other : i ≠ a) :
          (endEntry a s).entry i = s.entry i ∧ (endEntry a s).hold? i = s.hold? i := by
        rw [endEntry_entry, endEntry_hold, if_neg other, if_neg other]; exact ⟨rfl, rfl⟩
      refine ⟨fun i mem out => ?_, fun i out => ?_, frame⟩
      · by_cases same : i = a
        · subst same
          rw [endEntry_entry, endEntry_hold, if_pos rfl, if_pos rfl] at at_a
          exact at_a
        · obtain ⟨entry, hold⟩ := elsewhere same
          have listed := (List.mem_cons.1 mem).resolve_left same
          rw [← entry] at out ⊢
          exact ends i listed out
      · have other : i ≠ a := by
          rintro rfl
          exact out.elim (fun new => new (List.mem_cons_self ..)) fun stays => stays retired
        obtain ⟨entry, hold⟩ := elsewhere other
        rw [← entry, ← hold]
        rw [← entry] at out
        exact keeps i (out.imp_left fun new mem => new (List.mem_cons_of_mem _ mem))
    · rw [List.foldl_cons, endIfRetired_of_other retired] at ended
      obtain ⟨ends, keeps, frame⟩ := ih _ ended
      refine ⟨fun i mem out => ?_, fun i out => ?_, frame⟩
      · obtain rfl | mem := List.mem_cons.1 mem
        · exact absurd out retired
        · exact ends i mem out
      · by_cases same : i = a
        · subst same; exact keeps i (.inr retired)
        · exact keeps i (out.imp_left fun new mem => new (List.mem_cons_of_mem _ mem))

/-- An unlisted entry is not RETIRING. -/
theorem retired_listed {s : State} {n i : Nat} (retired : (s.entry i).Retired n) :
    i ∈ s.sourceIndices := by
  by_contra unlisted
  rw [entry_of_not_listed s i unlisted] at retired
  cases retired.1

/-- A state whose sources, window and Assembler alone may differ stays one with another Assembler. -/
theorem assembler_replaced {s t : State} {w : Window}
    (frame : t = { s with sources := t.sources, window := w, assembler := t.assembler })
    (a : Assembler) : { t with assembler := a } =
      { s with sources := t.sources, window := t.window, assembler := a } := by
  rw [frame]

/-- The end of an assembly, and the retirements that it completes. -/
theorem releaseSlot_entries (n : Nat) (s : State) :
    (∀ i, (s.entry i).Retired n →
      (releaseSlot n s).entry i = (s.entry i).ended ∧ (releaseSlot n s).hold? i = none) ∧
    (∀ i, ¬(s.entry i).Retired n →
      (releaseSlot n s).entry i = s.entry i ∧ (releaseSlot n s).hold? i = s.hold? i) ∧
    releaseSlot n s = { s with
      sources := (releaseSlot n s).sources
      window := (releaseSlot n s).window
      assembler := (releaseSlot n s).assembler } := by
  obtain ⟨ends, keeps, frame⟩ := endRetired_entries n s.sourceIndices
    { s with window := { s.window with
      freeRecords := s.window.freeRecords +
        match s.slot? n with
        | some slot => slot.contributors.length
        | none => 0
      slots := tableErase n s.window.slots } } _ rfl
  refine ⟨fun i retired => ends i (retired_listed retired) retired,
    fun i other => keeps i (.inr other), ?_⟩
  exact assembler_replaced frame _

/-- Settles O43: the slot leaves with its records, and the completed retirements end. -/
theorem assemblyEndReleasesTheSlot : Obligations.AssemblyEndReleasesTheSlot := by
  refine ⟨fun s sorted => ⟨windowBase_none, fun n => windowBase_some sorted⟩, ?_⟩
  intro s n slot atRest current considered found
  obtain ⟨ends, keeps, frame⟩ := releaseSlot_entries n s
  have window := releaseSlot_window n s
  rw [found] at window
  refine ⟨releaseSlot n s, ?_, ?_, ?_, ?_, ?_, ?_, ?_, ?_, rfl, rfl, rfl, ends, ?_, frame⟩
  · refine (event_at_rest atRest _).trans (congrArg _ ?_)
    simp only [assemblyEnd, current, considered]
    rfl
  · rw [State.slot?, window]; exact tableFind_erase_self ..
  · intro k other; rw [State.slot?, window]; exact tableFind_erase_ne other _
  · rw [window]
  · rw [window]
  · rw [window]
  · rw [window]
  · rw [window]
  · intro i other
    refine keeps i ?_
    rintro ⟨state, x, newest, le⟩
    exact other.elim (fun h => h state) fun h => absurd (h x newest) (Nat.not_lt.2 le)

end Sys2Proof.Machine

/-! PROOFS (the other statements). The SET that an assembly builds and hands over, byte by byte (O41). -/

namespace Sys2Proof.Machine

/-! ## Fields in a byte order, one after another -/

@[simp] theorem orderedBytes_length (o : ByteOrder) (w n : Nat) : (orderedBytes o w n).length = w := by
  cases o <;> simp [orderedBytes]

/-- Fields of given widths and values, one after another. -/
def wire (o : ByteOrder) (fields : List (Nat × Nat)) : List Byte :=
  fields.flatMap fun p => orderedBytes o p.1 p.2

/-- The bytes that fields take. -/
def widths (fields : List (Nat × Nat)) : Nat := (fields.map (·.1)).sum

theorem wire_append (o : ByteOrder) (a b : List (Nat × Nat)) : wire o (a ++ b) = wire o a ++ wire o b :=
  List.flatMap_append

theorem widths_append (a b : List (Nat × Nat)) : widths (a ++ b) = widths a + widths b := by
  simp [widths]

theorem wire_length (o : ByteOrder) (fields : List (Nat × Nat)) :
    (wire o fields).length = widths fields := by
  simp [wire, widths, List.length_flatMap]

theorem wire_flatMap {α : Type} (o : ByteOrder) (l : List α) (f : α → List (Nat × Nat)) :
    wire o (l.flatMap f) = l.flatMap fun a => wire o (f a) := List.flatMap_assoc

/-- Fields of one width each for the items of a list. -/
theorem widths_flatMap {α : Type} {w : Nat} {l : List α} {f : α → List (Nat × Nat)}
    (each : ∀ a, widths (f a) = w) : widths (l.flatMap f) = w * l.length := by
  induction l with
  | nil => rfl
  | cons a l ih => rw [List.flatMap_cons, widths_append, each, ih, List.length_cons]; ring

/-- The bytes that stand behind others. -/
theorem bytesAt_middle {a b c : List Byte} {k w : Nat} (before : a.length = k) (width : b.length = w) :
    bytesAt (a ++ (b ++ c)) k w = b := by
  rw [bytesAt, List.drop_left' before, List.take_left' width]

/-- A field is read where what stands before it ends. -/
theorem orderedField_middle {o : ByteOrder} {a c : List Byte} {k w n : Nat} (before : a.length = k) :
    orderedField o (a ++ (orderedBytes o w n ++ c)) k w = n % 256 ^ w := by
  have bytes : bytesAt (a ++ (orderedBytes o w n ++ c)) k w = orderedBytes o w n :=
    bytesAt_middle before (orderedBytes_length ..)
  cases o with
  | big => rw [orderedField, fieldAt, bytes, orderedBytes, beNat_beBytes]
  | little => rw [orderedField, bytes, orderedBytes, beNat_leBytes_reverse]

theorem orderedField_wire_mod {o : ByteOrder} {fields before after : List (Nat × Nat)} {k w n : Nat}
    (stands : fields = before ++ (w, n) :: after) (at_k : widths before = k) :
    orderedField o (wire o fields) k w = n % 256 ^ w := by
  rw [stands, wire_append]
  exact orderedField_middle ((wire_length ..).trans at_k)

theorem orderedField_wire {o : ByteOrder} {fields before after : List (Nat × Nat)} {k w n : Nat}
    (stands : fields = before ++ (w, n) :: after) (at_k : widths before = k) (fits : n < 256 ^ w) :
    orderedField o (wire o fields) k w = n :=
  (orderedField_wire_mod stands at_k).trans (Nat.mod_eq_of_lt fits)

/-- One byte is the same in either order. -/
theorem fieldAt_one (o : ByteOrder) (b : List Byte) (k : Nat) :
    fieldAt b k 1 = orderedField o b k 1 := by
  cases o with
  | big => rfl
  | little =>
    have short : (bytesAt b k 1).length ≤ 1 := by rw [bytesAt, List.length_take]; exact min_le_left ..
    rw [orderedField, fieldAt]
    revert short
    cases bytesAt b k 1 with
    | nil => intro _; rfl
    | cons a l =>
      intro short
      cases l with
      | nil => rfl
      | cons c l => simp at short

theorem be1_eq_ordered (o : ByteOrder) (n : Nat) : be1 n = orderedBytes o 1 n := by cases o <;> rfl

/-! ## The marks of a selection -/

theorem mem_marksFrom {bits j : Nat} {k c : Nat} :
    j ∈ marksFrom bits k c ↔ k ≤ j ∧ j < k + c ∧ bits.testBit j = true := by
  induction c generalizing k with
  | zero => simp only [marksFrom, List.not_mem_nil, false_iff]; omega
  | succ c ih =>
    rw [marksFrom, List.mem_append, ih]
    by_cases same : j = k
    · subst same
      split
      next marked => simp [marked]
      next unmarked => simp [unmarked]
    · split
      · simp only [List.mem_singleton, same, false_or]
        exact ⟨fun ⟨le, lt, marked⟩ => ⟨by omega, by omega, marked⟩,
          fun ⟨le, lt, marked⟩ => ⟨by omega, by omega, marked⟩⟩
      · simp only [List.not_mem_nil, false_or]
        exact ⟨fun ⟨le, lt, marked⟩ => ⟨by omega, by omega, marked⟩,
          fun ⟨le, lt, marked⟩ => ⟨by omega, by omega, marked⟩⟩

theorem marksFrom_rising (bits k c : Nat) : (marksFrom bits k c).Pairwise (· < ·) := by
  induction c generalizing k with
  | zero => exact .nil
  | succ c ih =>
    rw [marksFrom]
    split
    · refine List.pairwise_cons.2 ⟨fun j mem => ?_, ih _⟩
      exact (mem_marksFrom.1 mem).1
    · exact ih _

/-- A rising list of the marked places is the list of the selection. -/
theorem marks_unique {w : Nat} {bits : BitVec w} {places : List Nat} (rising : places.Pairwise (· < ·))
    (members : ∀ k, k ∈ places ↔ bits.getLsbD k = true) : places = marksFrom bits.toNat 0 w := by
  refine List.Pairwise.eq_of_mem_iff (r := (· < ·)) rising (marksFrom_rising ..) fun k => ?_
  rw [members, mem_marksFrom]
  exact ⟨fun marked => ⟨k.zero_le, by rw [zero_add]; exact BitVec.lt_of_getLsbD marked, marked⟩,
    fun ⟨_, _, marked⟩ => marked⟩

/-! ## The fields of a SET entry (R143, R187) -/

def Descriptor.magnitudeWidth (d : Descriptor) : Nat := if d.magnitudeForm = .m24 then 3 else 2

/-- The fields of a marked phasor: zero beyond the record's count. -/
def phasorFields (d : Descriptor) (r : SampleRecord) (k : Nat) : List (Nat × Nat) :=
  [(2, (r.phasors[k]?).elim 0 fun p => outAngle d.angleForm p.angle),
   (d.magnitudeWidth, (r.phasors[k]?).elim 0 fun p =>
     outMagnitude d.magnitudeForm d.shift p.magnitude)]

def analogFields (r : SampleRecord) (k : Nat) : List (Nat × Nat) :=
  [(2, ((r.analogs[k]?).getD 0).toNat)]

/-- The fields of a PRESENT or HELD entry ahead of its values. -/
def entryHead (d : Descriptor) (e : ListEntry) (id : Word16) (r : SampleRecord) (held : Bool) :
    List (Nat × Nat) :=
  [(2, id.toNat), (1, if held then 1 else 0), (1, entryFlags r held (shapeShort e r)),
   (3, offsetField r.offset), (1, r.quality), (2, r.status.toNat)] ++
  if d.includeFrequency then [(2, r.frequency.toNat), (2, r.rocof.toNat)] else []

def entryFields (d : Descriptor) (e : ListEntry) (id : Word16) (r : SampleRecord) (held : Bool) :
    List (Nat × Nat) :=
  entryHead d e id r held ++ e.phasorMarks.flatMap (phasorFields d r) ++
    e.analogMarks.flatMap (analogFields r)

section
variable (d : Descriptor) (e : ListEntry) (id : Word16) (r : SampleRecord) (held : Bool) (k : Nat)

theorem phasorBytes_eq : phasorBytes d r k = wire d.order (phasorFields d r k) := by
  unfold phasorBytes phasorFields Descriptor.magnitudeWidth
  cases d.magnitudeForm <;> cases r.phasors[k]? <;> simp [wire]

theorem analogBytes_eq : analogBytes d r k = wire d.order (analogFields r k) := by
  simp [analogBytes, analogFields, wire]

theorem widths_phasorFields : widths (phasorFields d r k) = 2 + d.magnitudeWidth := by
  simp [widths, phasorFields]

theorem widths_entryHead :
    widths (entryHead d e id r held) = if d.includeFrequency then 14 else 10 := by
  rw [entryHead, widths_append]
  cases d.includeFrequency <;> rfl

theorem widths_phasors (l : List Nat) :
    widths (l.flatMap (phasorFields d r)) = (2 + d.magnitudeWidth) * l.length :=
  widths_flatMap (widths_phasorFields d r)

theorem widths_analogs (l : List Nat) : widths (l.flatMap (analogFields r)) = 2 * l.length :=
  widths_flatMap fun _ => rfl

/-- What a PRESENT or HELD entry carries is its fields in the view's order. -/
theorem valueBytes_eq : orderedBytes d.order 2 id.toNat ++
    (be1 (if held then 1 else 0) ++ valueBytes d e r held) = wire d.order (entryFields d e id r held) := by
  have phasors : e.phasorMarks.flatMap (phasorBytes d r) =
      wire d.order (e.phasorMarks.flatMap (phasorFields d r)) := by
    rw [wire_flatMap]; exact congrArg (e.phasorMarks.flatMap ·) (funext (phasorBytes_eq d r))
  have analogs : e.analogMarks.flatMap (analogBytes d r) =
      wire d.order (e.analogMarks.flatMap (analogFields r)) := by
    rw [wire_flatMap]; exact congrArg (e.analogMarks.flatMap ·) (funext (analogBytes_eq d r))
  rw [valueBytes, phasors, analogs, entryFields, wire_append, wire_append, entryHead, wire_append]
  cases d.includeFrequency <;> simp [wire, be1_eq_ordered d.order]

/-! ## The values fit their fields -/

theorem entryFlags_lt (short : Bool) : entryFlags r held short < 256 := by
  have bound (b : Bool) (n : Nat) : (if b then n else 0) ≤ n := by cases b <;> simp
  have invalid := bound r.invalid 1
  have poor := bound r.poorTime 2
  have rotated := bound r.reReferenced 4
  have unrotated := bound r.unReferenced 8
  have isHeld := bound held 16
  have isShort := bound short 32
  unfold entryFlags
  omega

theorem outAngle_lt (f : AngleForm) (a : Word16) : outAngle f a < 256 ^ 2 := by
  cases f with
  | bin16 => exact a.isLt
  | cdeg => rw [outAngle, centidegrees]; omega

theorem outMagnitude_lt (m : BitVec 24) :
    outMagnitude d.magnitudeForm d.shift m < 256 ^ d.magnitudeWidth := by
  rw [Descriptor.magnitudeWidth]
  cases d.magnitudeForm with
  | m24 => exact m.isLt
  | m16 => exact Nat.lt_of_le_of_lt (min_le_left ..) (by decide)

theorem offsetField_eq (x : Int) :
    (offsetField x : Int) = max (-8388608) (min 8388607 x) % 16777216 := by
  rw [offsetField, BitVec.toNat_ofInt, Int.toNat_of_nonneg (by omega)]
  rfl

end

/-! ## The fields read back -/

section
variable {d : Descriptor} {e : ListEntry} {id : Word16} {r : SampleRecord} {held : Bool}

/-- A list is cut at an item. -/
theorem cut_at {l : List Nat} {j k : Nat} (at_j : l[j]? = some k) :
    l = l.take j ++ k :: l.drop (j + 1) ∧ (l.take j).length = j := by
  obtain ⟨lt, rfl⟩ := List.getElem?_eq_some_iff.1 at_j
  exact ⟨by simp, List.length_take_of_le lt.le⟩

/-- The fields of a phasor at its place. -/
theorem phasorFields_read {j k : Nat} (at_j : e.phasorMarks[j]? = some k) (a m o : Nat)
    (fields : phasorFields d r k = [(2, a), (d.magnitudeWidth, m)])
    (place : o = (if d.includeFrequency then 14 else 10) + (2 + d.magnitudeWidth) * j)
    (fitsA : a < 256 ^ 2) (fitsM : m < 256 ^ d.magnitudeWidth) :
    orderedField d.order (wire d.order (entryFields d e id r held)) o 2 = a ∧
    orderedField d.order (wire d.order (entryFields d e id r held)) (o + 2) d.magnitudeWidth = m := by
  obtain ⟨split, length⟩ := cut_at at_j
  have whole : entryFields d e id r held =
      (entryHead d e id r held ++ (e.phasorMarks.take j).flatMap (phasorFields d r)) ++
        (2, a) :: (d.magnitudeWidth, m) :: ((e.phasorMarks.drop (j + 1)).flatMap (phasorFields d r) ++
          e.analogMarks.flatMap (analogFields r)) := by
    rw [entryFields]
    conv_lhs => rw [split]
    rw [List.flatMap_append, List.flatMap_cons, fields]
    simp
  have before : widths (entryHead d e id r held ++ (e.phasorMarks.take j).flatMap (phasorFields d r)) =
      o := by
    rw [widths_append, widths_entryHead, widths_phasors, length, place]
  refine ⟨orderedField_wire whole before fitsA, ?_⟩
  exact orderedField_wire (whole.trans (List.append_cons ..)) (by rw [widths_append, before]; rfl) fitsM

theorem analogFields_read {j k : Nat} (at_j : e.analogMarks[j]? = some k) (a o : Nat)
    (fields : analogFields r k = [(2, a)])
    (place : o = (if d.includeFrequency then 14 else 10) +
      (2 + d.magnitudeWidth) * e.phasorMarks.length + 2 * j) (fits : a < 256 ^ 2) :
    orderedField d.order (wire d.order (entryFields d e id r held)) o 2 = a := by
  obtain ⟨split, length⟩ := cut_at at_j
  refine orderedField_wire (before := entryHead d e id r held ++
    e.phasorMarks.flatMap (phasorFields d r) ++ (e.analogMarks.take j).flatMap (analogFields r))
    (after := (e.analogMarks.drop (j + 1)).flatMap (analogFields r)) ?_ ?_ fits
  · rw [entryFields]
    conv_lhs => rw [split]
    rw [List.flatMap_append, List.flatMap_cons, fields]
    simp
  · rw [widths_append, widths_append, widths_entryHead, widths_phasors, widths_analogs, length, place]

theorem entryFrequency_read (included : d.includeFrequency = true) :
    orderedField d.order (wire d.order (entryFields d e id r held)) 10 2 = r.frequency.toNat ∧
    orderedField d.order (wire d.order (entryFields d e id r held)) 12 2 = r.rocof.toNat := by
  have stands : entryFields d e id r held =
      [(2, id.toNat), (1, if held then 1 else 0), (1, entryFlags r held (shapeShort e r)),
        (3, offsetField r.offset), (1, r.quality), (2, r.status.toNat)] ++
      (2, r.frequency.toNat) :: (2, r.rocof.toNat) ::
        (e.phasorMarks.flatMap (phasorFields d r) ++ e.analogMarks.flatMap (analogFields r)) := by
    rw [entryFields, entryHead, if_pos included]
    simp
  exact ⟨orderedField_wire stands rfl r.frequency.isLt,
    orderedField_wire (stands.trans (List.append_cons ..)) rfl r.rocof.isLt⟩

theorem shapeShort_iff : shapeShort e r = true ↔
    (∃ k ∈ e.phasorMarks, r.phasors.length ≤ k) ∨ ∃ k ∈ e.analogMarks, r.analogs.length ≤ k := by
  simp [shapeShort]

end

/-- The fields ahead of an entry's values read back. -/
theorem entryHead_read (d : Descriptor) (e : ListEntry) (id : Word16) (r : SampleRecord) (held : Bool) :
    fieldAt (wire d.order (entryFields d e id r held)) 2 1 = (if held then 1 else 0) ∧
    fieldAt (wire d.order (entryFields d e id r held)) 3 1 = entryFlags r held (shapeShort e r) ∧
    (orderedField d.order (wire d.order (entryFields d e id r held)) 4 3 : Int) =
      max (-8388608) (min 8388607 r.offset) % 16777216 ∧
    fieldAt (wire d.order (entryFields d e id r held)) 7 1 = r.quality % 256 ∧
    orderedField d.order (wire d.order (entryFields d e id r held)) 8 2 = r.status.toNat := by
  rw [fieldAt_one d.order, fieldAt_one d.order, fieldAt_one d.order, ← offsetField_eq]
  refine ⟨?_, ?_, congrArg _ ?_, ?_, ?_⟩
  · exact orderedField_wire (before := [(2, id.toNat)]) rfl rfl (by cases held <;> decide)
  · exact orderedField_wire (before := [(2, id.toNat), (1, if held then 1 else 0)]) rfl rfl
      (entryFlags_lt ..)
  · exact orderedField_wire (before := [(2, id.toNat), (1, if held then 1 else 0),
      (1, entryFlags r held (shapeShort e r))]) rfl rfl (BitVec.isLt _)
  · exact orderedField_wire_mod (before := [(2, id.toNat), (1, if held then 1 else 0),
      (1, entryFlags r held (shapeShort e r)), (3, offsetField r.offset)]) rfl rfl
  · exact orderedField_wire (before := [(2, id.toNat), (1, if held then 1 else 0),
      (1, entryFlags r held (shapeShort e r)), (3, offsetField r.offset), (1, r.quality)]) rfl rfl
      r.status.isLt

/-- The disposition of an entry that carries no record stands behind its identifier. -/
theorem setEntryBytes_bare {d : Descriptor} {e : ListEntry} {x : DispositionRecord} {c : Nat}
    (bare : setEntryBytes d e x = orderedBytes d.order 2 x.id.toNat ++ be1 c) :
    fieldAt (setEntryBytes d e x) 2 1 = c % 256 := by
  rw [fieldAt_one d.order, bare, be1_eq_ordered d.order, ← List.append_nil (orderedBytes d.order 1 c)]
  exact orderedField_middle (orderedBytes_length ..)

/-- The bytes of an entry that carries a record. -/
theorem setEntryBytes_eq {d : Descriptor} {e : ListEntry} {i : Nat} {id : Word16} {x : Disposition}
    {r : SampleRecord} {held : Bool}
    (carried : held = false ∧ x = .present r ∨ held = true ∧ x = .held r) :
    setEntryBytes d e ⟨i, id, x⟩ = wire d.order (entryFields d e id r held) := by
  rw [← valueBytes_eq]
  obtain ⟨rfl, rfl⟩ | ⟨rfl, rfl⟩ := carried <;> rfl

/-- Settles O41: a SET is its fields one after another, each read where those before it end. -/
theorem wholeSetIsHandedOver : Obligations.WholeSetIsHandedOver := by
  refine ⟨?_, fun o => ?_, ?_⟩
  · rintro s n v d slot reason o atRest current next descriptor found closed rfl
    refine (event_at_rest atRest _).trans (congrArg _ ?_)
    have built : buildSet s v d n reason =
        { tag := d.tag, revision := (s.view v).revision, second := n / s.grid.rate,
          index := n % s.grid.rate, reason := reason, quality := s.time.quality,
          entryCount := d.sources.length,
          entries := d.sources.flatMap fun e =>
            (s.dispositionOf e.source).elim [] (setEntryBytes d e) } := by
      rw [buildSet]
      congr 1
      refine List.flatMap_congr fun e _ => ?_
      cases s.dispositionOf e.source <;> rfl
    simp only [handOverSet, current, next, descriptor, found, Option.bind_some, closed, Option.getD_some,
      built]
    rfl
  · have header : (be1 o.tag ++ be2 o.revision.toNat ++ be4 o.second ++ be1 o.index ++
        be1 o.reason.code ++ be1 o.quality.code ++ be1 (o.entryCount - 1)).length = 11 := by
      simp [be1, be2, be4]
    rw [setBody, List.take_left' header, List.drop_left' header]
    refine ⟨?_, rfl⟩
    exact carries_append (carries_append (carries_append (carries_append (carries_append (carries_append
      (carries_be1 _) (carries_be2 _)) (carries_be4 _)) (carries_be1 _)) (carries_be1 _))
      (carries_be1 _)) (carries_be1 _)
  · rintro d e i id x _ rfl
    refine ⟨?_, ?_, ?_, ?_⟩
    · exact (orderedField_middle (a := []) rfl).trans (Nat.mod_eq_of_lt id.isLt)
    · rintro rfl
      exact ⟨by simp [setEntryBytes, be1], setEntryBytes_bare (c := 2) rfl⟩
    · rintro rfl
      exact ⟨by simp [setEntryBytes, be1], setEntryBytes_bare (c := 3) rfl⟩
    · intro r held short w base phasors analogs carried width head risingP membersP risingA membersA
        isShort
      obtain rfl : phasors = e.phasorMarks := marks_unique risingP membersP
      obtain rfl : analogs = e.analogMarks := marks_unique risingA membersA
      obtain rfl : short = shapeShort e r := Bool.eq_iff_iff.2 (isShort.trans shapeShort_iff.symm)
      rw [setEntryBytes_eq carried]
      obtain rfl : w = d.magnitudeWidth := width
      subst head
      have length : (wire d.order (entryFields d e id r held)).length =
          (if d.includeFrequency then 14 else 10) + (2 + d.magnitudeWidth) * e.phasorMarks.length +
            2 * e.analogMarks.length := by
        rw [wire_length, entryFields, widths_append, widths_append, widths_entryHead, widths_phasors,
          widths_analogs]
      obtain ⟨isHeld, flags, offset, quality, status⟩ := entryHead_read d e id r held
      refine ⟨length, isHeld, flags, offset, quality, status, entryFrequency_read,
        fun j k o at_j place => ⟨fun p found => ?_, fun beyond => ?_⟩,
        fun j k o at_j place => ⟨fun a found => ?_, fun beyond => ?_⟩⟩
      · exact phasorFields_read at_j _ _ o (by rw [phasorFields, found]; rfl) place (outAngle_lt ..)
          (outMagnitude_lt ..)
      · refine phasorFields_read at_j 0 0 o ?_ place (by decide) (Nat.pow_pos (by decide))
        rw [phasorFields, List.getElem?_eq_none beyond]; rfl
      · exact analogFields_read at_j _ o (by rw [analogFields, found]; rfl) place a.isLt
      · refine analogFields_read at_j 0 o ?_ place (by decide)
        rw [analogFields, List.getElem?_eq_none beyond]; rfl

end Sys2Proof.Machine

/-! PROOFS (the other statements). The Command Link and the notices: the REQUEST frame, the line's choice,
the refusals that every request shares, and the place of a raised notice (O47 to O50). -/

namespace Sys2Proof.Machine

/-! ## Reception (R156, R157) -/

/-- The last CRC byte of a frame completes it, as either command brings it (log 14). -/
theorem exec_lastCommandByte {s : State} {b : Byte} {c : Instr} {n : Nat} {got : List Byte}
    (atRest : s.AtRest) (row : c = .requestFrame b ∨ c = .clByte b)
    (stands : s.command.receiver = .frame n got) (full : got.length + 1 = n + 4) :
    exec c s = .next (completeRequest ((got ++ [b]).take n) ((got ++ [b]).drop n)
      { s with command := { s.command with receiver := .hunt } }) := by
  obtain rfl | rfl := row
  · refine (event_at_rest atRest (commandLastByte b)).trans (congrArg _ ?_)
    have short : s.command.receiver.oneByteShort = true := by
      rw [stands]; exact decide_eq_true (by omega)
    rw [commandLastByte, if_pos short, commandByte_last stands full]
  · exact (event_at_rest atRest (commandByte b)).trans (congrArg _ (commandByte_last stands full))

section
variable {s : State} {kind code tag : Byte} {fields content crc : List Byte}

theorem completeRequest_badCrc (wrong : crc ≠ crcBytes content) : completeRequest content crc s =
    s.countCommand fun c => { c with crcError := bump c.crcError } := if_pos wrong

theorem completeRequest_otherKind (right : crc = crcBytes (kind :: code :: tag :: fields))
    (other : kind ≠ kindRequest) : completeRequest (kind :: code :: tag :: fields) crc s =
      s.countCommand fun c => { c with kindError := bump c.kindError } :=
  (if_neg (not_not.2 right)).trans (if_pos other)

theorem completeRequest_offered (right : crc = crcBytes (kindRequest :: code :: tag :: fields)) :
    completeRequest (kindRequest :: code :: tag :: fields) crc s = takeRequest ⟨code, tag, fields⟩ s :=
  (if_neg (not_not.2 right)).trans (if_neg (not_not.2 rfl))

end

/-- Settles O47: the checks of a whole frame in their order, then the offer. -/
theorem requestFrameIsTakenAnsweredOrDiscarded : Obligations.RequestFrameIsTakenAnsweredOrDiscarded := by
  rintro s u b c n got content crc kind code tag fields atRest row stands full rfl rfl whole rfl
  rw [exec_lastCommandByte atRest row stands full]
  refine ⟨fun wrong => ?_, fun right other => ?_, fun right request => ?_⟩
  · rw [completeRequest_badCrc wrong]; rfl
  · rw [whole] at right ⊢
    rw [completeRequest_otherKind right other]; rfl
  · obtain rfl : kind = kindRequest := request
    rw [whole] at right ⊢
    refine ⟨fun room => ?_, fun noRoom place => ?_, fun noRoom noPlace => ?_⟩
    · exact congrArg _ (completeRequest_taken right room)
    · rw [completeRequest_offered right]
      exact congrArg _ ((if_neg (Nat.not_lt.2 noRoom)).trans (if_pos place))
    · rw [completeRequest_offered right]
      exact congrArg _ ((if_neg (Nat.not_lt.2 noRoom)).trans (if_neg (Nat.not_lt.2 noPlace)))

/-! ## The line (R164) -/

section
variable {s : State}

theorem lineBusy_iff : s.lineBusy = true ↔
    s.command.line ≠ none ∨ s.release.commandQueue.sending = true := by
  rw [State.lineBusy, Bool.or_eq_true, Option.isSome_iff_ne_none]

theorem lineBusy_idle (free : s.command.line = none) (waits : s.release.commandQueue.sending = false) :
    s.lineBusy = false := by
  rw [State.lineBusy, free, waits]; rfl

theorem transmitChoice_reply {r : Reply} {rest : List Reply} (idle : s.lineBusy = false)
    (oldest : s.command.replies = r :: rest) : transmitChoice s = replyPlaceFreed
      { s with command := { s.command with line := some (.reply r), replies := rest } } := by
  rw [transmitChoice, idle, if_neg (by decide), oldest]

theorem transmitChoice_notice {n : Notice} {rest : List Notice} (idle : s.lineBusy = false)
    (noReply : s.command.replies = []) (first : s.reporting.notices = n :: rest) :
    transmitChoice s = { s with
      command := { s.command with line := some (.notice n) }
      reporting := { s.reporting with notices := rest } } := by
  rw [transmitChoice, idle, if_neg (by decide), noReply, first]

theorem transmitChoice_set (idle : s.lineBusy = false) (noReply : s.command.replies = [])
    (noNotice : s.reporting.notices = []) (sets : s.release.commandQueue.sets ≠ []) :
    transmitChoice s = s.modifyQueue .cl fun q => { q with sending := true } := by
  rw [transmitChoice, idle, if_neg (by decide), noReply, noNotice]
  exact if_neg sets

theorem transmitChoice_nothing (idle : s.lineBusy = false) (noReply : s.command.replies = [])
    (noNotice : s.reporting.notices = []) (noSet : s.release.commandQueue.sets = []) :
    transmitChoice s = s := by
  rw [transmitChoice, idle, if_neg (by decide), noReply, noNotice]
  exact if_pos noSet

/-- A processor that does not wait for the place leaves it free. -/
theorem replyPlaceFreed_kept (room : s.command.processor ≠ .awaitingRoom)
    (drain : s.command.processor ≠ .awaitingDrain ∨ s.reporting.opState = .draining) :
    replyPlaceFreed s = s := by
  unfold replyPlaceFreed
  split
  next waits => exact absurd waits room
  next waits => exact if_pos (drain.resolve_left (not_not.2 waits))
  next => rfl
  next => rfl
  next => rfl

theorem replyPlaceFreed_room (waits : s.command.processor = .awaitingRoom) :
    replyPlaceFreed s = s.withProcessor .free := by
  rw [replyPlaceFreed, waits]; rfl

theorem replyPlaceFreed_drained {q : Request} {others : List Request}
    (waits : s.command.processor = .awaitingDrain) (ended : s.reporting.opState ≠ .draining)
    (head : s.command.requests = q :: others) : replyPlaceFreed s = { s with command :=
      { s.command with
        replies := s.command.replies ++ [⟨q.code, q.tag, .ok, []⟩]
        requests := others
        processor := .free } } := by
  rw [replyPlaceFreed, waits]
  refine (if_neg ended).trans ?_
  rw [makeStopReply, head]

/-! ## The end of a transmission (R164) -/

theorem commandTransmissionEnd_reply {r : Reply} (line : s.command.line = some (.reply r)) :
    commandTransmissionEnd s = if s.resetReplyEnds r then deviceReset s else
      transmitChoice { s with command := { s.command with
        line := none, counters := countReplySent r.status s.command.counters } } := by
  rw [commandTransmissionEnd, line]

theorem commandTransmissionEnd_notice {n : Notice} (line : s.command.line = some (.notice n)) :
    commandTransmissionEnd s = transmitChoice { s with command := { s.command with
      line := none
      counters := { s.command.counters with noticesSent := bump s.command.counters.noticesSent } } } := by
  rw [commandTransmissionEnd, line]

theorem commandTransmissionEnd_set (line : s.command.line = none) : commandTransmissionEnd s =
    if s.release.commandQueue.sending then
      transmitChoice (s.modifyQueue .cl ReleaseQueue.sentHead) else s := by
  rw [commandTransmissionEnd, line]

theorem resetReplyEnds_iff {r : Reply} : s.resetReplyEnds r = true ↔
    s.command.processor = .awaitingReset ∧ r.code = 25#8 ∧ r.status = .ok := by
  simp [State.resetReplyEnds, and_assoc]

theorem resetReplyEnds_not_iff {r : Reply} : ¬s.resetReplyEnds r = true ↔
    s.command.processor ≠ .awaitingReset ∨ r.code ≠ 25#8 ∨ r.status ≠ .ok := by
  rw [resetReplyEnds_iff, not_and_or, not_and_or]

end

/-- Settles O48: what the line carries, what the end of it brings, and what an idle line chooses. -/
theorem commandLineSendsRepliesNoticesThenSets : Obligations.CommandLineSendsRepliesNoticesThenSets := by
  intro s
  refine ⟨⟨fun r line => ?_, fun n line => ?_, fun line => ⟨fun waits => ?_, fun o rest sends sets => ?_⟩⟩,
    fun atRest => ⟨fun r line => ⟨fun waits code status => ?_, fun other => ⟨fun busy => ?_,
      fun answered => ?_⟩⟩, fun n line => ?_, fun o rest line sends sets => ?_, fun line waits => ?_⟩,
    fun busy => transmitChoice_busy s (lineBusy_iff.2 busy), fun line waits => ?_⟩
  · rw [State.commandLineFrame, line]; rfl
  · rw [State.commandLineFrame, line]; rfl
  · rw [State.commandLineFrame, line, waits]; rfl
  · rw [State.commandLineFrame, line, sends, sets]; rfl
  · refine (event_at_rest atRest _).trans (congrArg _ ?_)
    rw [commandTransmissionEnd_reply line, if_pos (resetReplyEnds_iff.2 ⟨waits, code, status⟩)]
    rfl
  · rw [← resetReplyEnds_not_iff] at other
    refine (event_at_rest atRest _).trans (congrArg _ ?_)
    rw [commandTransmissionEnd_reply line, if_neg other, countReplySent, if_pos busy]
    rfl
  · rw [← resetReplyEnds_not_iff] at other
    refine (event_at_rest atRest _).trans (congrArg _ ?_)
    rw [commandTransmissionEnd_reply line, if_neg other, countReplySent, if_neg answered]
    rfl
  · exact (event_at_rest atRest _).trans (congrArg _ (commandTransmissionEnd_notice line))
  · refine (event_at_rest atRest _).trans (congrArg _ ?_)
    rw [commandTransmissionEnd_set line, if_pos sends]
    refine congrArg _ ?_
    simp only [State.modifyQueue, Release.setQueue, Release.queue, ReleaseQueue.sentHead, sets]
    rfl
  · refine (event_at_rest atRest _).trans (congrArg _ ?_)
    rw [commandTransmissionEnd_set line, waits]; rfl
  · have idle := lineBusy_idle line waits
    refine ⟨transmitChoice_nothing idle, fun r rest oldest => ⟨fun room drain => ?_, fun room => ?_,
      fun q others drain ended head => ?_⟩, fun n rest => transmitChoice_notice idle,
      transmitChoice_set idle⟩
    · rw [transmitChoice_reply idle oldest]
      exact replyPlaceFreed_kept room drain
    · rw [transmitChoice_reply idle oldest]
      exact replyPlaceFreed_room room
    · rw [transmitChoice_reply idle oldest]
      exact replyPlaceFreed_drained drain ended head

/-! ## The refusals that every request shares (R160) -/

section
variable {s : State} {r : Request} {rest : List Request}

/-- A request that its owner refuses is answered with that status alone. -/
theorem answer_refused {code : Nat} {f : Request → State → Execution} {st : Status}
    (executes : s.Executes code r rest) (refused : f r (s.withProcessor .executing) = .refuse st) :
    answer (runRequest code f s) = .next (finishRequest r st [] s) := by
  rw [answer_runRequest executes, refused]; rfl

theorem checks_badLength {a b c : Bool} {o : Execution} (length : a = false) :
    checks a b c o = .refuse .badLength := by rw [length]; rfl

theorem checks_wrongState {a b c : Bool} {o : Execution} (length : a = true) (state : b = false) :
    checks a b c o = .refuse .wrongState := by rw [length, state]; rfl

/-- The states in which the request of a code is allowed (R160, R167). -/
def State.allows (s : State) (code : Nat) : Bool :=
  match code with
  | 3 | 4 | 5 | 20 | 24 => s.reporting.opState = .idle
  | 21 => s.reporting.opState = .running
  | 22 => s.reporting.opState = .running && s.window.config.mode = .demand
  | _ => true

/-- A row of the catalogue executes the requests of its code, and checks their length and the state. -/
def CheckedRow (row : Instr × Nat × Nat) : Prop :=
  ∃ f : Request → State → Execution, (∀ s, exec row.1 s = answer (runRequest row.2.1 f s)) ∧
    ∀ r s, ∃ fields owner,
      f r s = checks (decide (r.fields.length = row.2.2)) (s.allows row.2.1) fields owner

/-- The rows of R167 whose requests have one length. -/
def catalogue : List (Instr × Nat × Nat) :=
  [(.identify, 1, 0), (.readStatus, 2, 0), (.configureGrid, 3, 3),
   (.configureRelease, 4, 14), (.configureTime, 5, 4), (.setSecond, 6, 4),
   (.configureIngest, 7, 24), (.readUnknownLog, 8, 1), (.declareSource, 9, 22),
   (.amendSource, 10, 13), (.retireSource, 11, 2), (.suspendSource, 12, 2),
   (.resumeSource, 13, 2), (.readSource, 14, 4), (.cancelView, 16, 1), (.readView, 17, 2),
   (.configureReleaseLink, 18, 2), (.readReleaseLinks, 19, 1), (.start, 20, 0),
   (.stop, 21, 0), (.releaseThrough, 22, 8), (.readWindow, 23, 10), (.resetWindow, 24, 0),
   (.resetDevice, 25, 0), (.clearCounters, 26, 0), (.clearFaults, 27, 8),
   (.setNotices, 28, 20)]

theorem catalogue_checked : ∀ row ∈ catalogue, CheckedRow row := by
  simp only [catalogue, List.forall_mem_cons]
  exact ⟨⟨identify, fun _ => rfl, fun _ _ => ⟨_, _, rfl⟩⟩,
    ⟨readStatus, fun _ => rfl, fun _ _ => ⟨_, _, rfl⟩⟩,
    ⟨configureGrid, fun _ => rfl, fun _ _ => ⟨_, _, rfl⟩⟩,
    ⟨configureRelease, fun _ => rfl, fun _ _ => ⟨_, _, rfl⟩⟩,
    ⟨configureTime, fun _ => rfl, fun _ _ => ⟨_, _, rfl⟩⟩,
    ⟨setSecond, fun _ => rfl, fun _ _ => ⟨_, _, rfl⟩⟩,
    ⟨configureIngest, fun _ => rfl, fun _ _ => ⟨_, _, rfl⟩⟩,
    ⟨readUnknownLog, fun _ => rfl, fun _ _ => ⟨_, _, rfl⟩⟩,
    ⟨declareSource, fun _ => rfl, fun _ _ => ⟨_, _, rfl⟩⟩,
    ⟨amendSource, fun _ => rfl, fun _ _ => ⟨_, _, rfl⟩⟩,
    ⟨retireSource, fun _ => rfl, fun _ _ => ⟨_, _, rfl⟩⟩,
    ⟨suspendSource, fun _ => rfl, fun _ _ => ⟨_, _, rfl⟩⟩,
    ⟨resumeSource, fun _ => rfl, fun _ _ => ⟨_, _, rfl⟩⟩,
    ⟨readSource, fun _ => rfl, fun _ _ => ⟨_, _, rfl⟩⟩,
    ⟨cancelView, fun _ => rfl, fun _ _ => ⟨_, _, rfl⟩⟩,
    ⟨readView, fun _ => rfl, fun _ _ => ⟨_, _, rfl⟩⟩,
    ⟨configureReleaseLink, fun _ => rfl, fun _ _ => ⟨_, _, rfl⟩⟩,
    ⟨readReleaseLinks, fun _ => rfl, fun _ _ => ⟨_, _, rfl⟩⟩,
    ⟨start, fun _ => rfl, fun _ _ => ⟨_, _, rfl⟩⟩,
    ⟨stop, fun _ => rfl, fun _ _ => ⟨_, _, rfl⟩⟩,
    ⟨releaseThrough, fun _ => rfl, fun _ _ => ⟨_, _, rfl⟩⟩,
    ⟨readWindow, fun _ => rfl, fun _ _ => ⟨_, _, rfl⟩⟩,
    ⟨resetWindow, fun _ => rfl, fun _ _ => ⟨_, _, rfl⟩⟩,
    ⟨resetDevice, fun _ => rfl, fun _ _ => ⟨_, _, rfl⟩⟩,
    ⟨clearCounters, fun _ => rfl, fun _ _ => ⟨_, _, rfl⟩⟩,
    ⟨clearFaults, fun _ => rfl, fun _ _ => ⟨_, _, rfl⟩⟩,
    ⟨setNotices, fun _ => rfl, fun _ _ => ⟨_, _, rfl⟩⟩, by simp⟩

theorem allows_of_forbidden {code : Nat}
    (forbidden : code ∈ [3, 4, 5, 20, 24] ∧ s.reporting.opState ≠ .idle ∨
      code ∈ [21, 22] ∧ s.reporting.opState ≠ .running ∨
      code = 22 ∧ s.window.config.mode ≠ .demand) : s.allows code = false := by
  simp only [List.mem_cons, List.not_mem_nil, or_false] at forbidden
  obtain ⟨rfl | rfl | rfl | rfl | rfl, state⟩ | ⟨rfl | rfl, state⟩ | ⟨rfl, mode⟩ := forbidden
  all_goals simp_all [State.allows]

end

/-- Settles O49: every row of the catalogue checks the length, then the state, before its owner. -/
theorem refusedRequestsAreAnsweredAndChangeNothing :
    Obligations.RefusedRequestsAreAnsweredAndChangeNothing := by
  refine ⟨fun code tag st bytes => rfl, rfl, fun s r rest => ⟨fun code executes => ⟨fun st bytes => ?_,
    fun unknown => ?_, fun c length mem => ⟨fun other => ?_, fun same forbidden => ?_⟩, ?_⟩,
    fun out free head full => ?_⟩⟩
  · have next : s.command.requests.drop 1 = rest := by rw [executes.head]; rfl
    rw [← next]
    rfl
  · have isUnknown : unknownCode r.code.toNat = true := by
      rw [executes.code]
      simpa [unknownCode] using unknown
    have room : s.command.replies.length < Config.replyCapacity := executes.room
    refine congrArg Host.Outcome.next ?_
    rw [outOfReset, executes.outOfReset, if_neg (by decide), executeHead, executes.free, executes.head]
    exact (if_pos isUnknown).trans (if_pos room)
  · obtain ⟨f, row, checked⟩ := catalogue_checked _ mem
    obtain ⟨fields, owner, eq⟩ := checked r (s.withProcessor .executing)
    exact (row s).trans (answer_refused executes
      (eq.trans (checks_badLength (decide_eq_false other))))
  · obtain ⟨f, row, checked⟩ := catalogue_checked _ mem
    obtain ⟨fields, owner, eq⟩ := checked r (s.withProcessor .executing)
    exact (row s).trans (answer_refused executes (eq.trans
      (checks_wrongState (decide_eq_true same) (allows_of_forbidden (s := s) forbidden))))
  · rintro rfl other
    refine answer_refused (f := stageView) executes (checks_badLength ?_)
    rw [stageLength, Bool.and_eq_false_iff, decide_eq_false_iff_not, decide_eq_false_iff_not]
    exact other.imp Nat.not_le.2 id
  · have due : s.requestDue = true := (requestDue_iff s).2 ⟨out, free, by simp [head]⟩
    have noRoom : ¬s.command.replies.length < Config.replyCapacity := Nat.not_lt.2 full
    rw [exec_requestCommand due head]
    refine congrArg _ ?_
    rw [executeHead, free, head]
    exact (if_pos rfl).trans (if_neg noRoom)

/-! ## The place of a raised notice (R173 to R175) -/

section
variable {s : State} {c : NoticeClass} {subject : Subject} {detail : Nat} {n : Notice}

/-- A notice's body has the fields of its subject. -/
theorem noticeBody_carries {kind value : Nat}
    (fields : subjectBytes n.subject = be1 kind ++ be2 value) :
    carries [(1, some n.cls.code), (1, some n.priority), (1, some kind), (2, some value),
      (8, some n.detail), (4, some n.second)] (noticeBody n) := by
  have subject : carries [(1, some kind), (2, some value)] (subjectBytes n.subject) :=
    fields ▸ carries_append (carries_be1 kind) (carries_be2 value)
  exact carries_append (carries_append (carries_append (carries_append (carries_be1 _) (carries_be1 _))
    subject) (carries_be8 _)) (carries_be4 _)

theorem raiseNotice_masked (masked : (s.reporting.classes.get c).masked = true) :
    raiseNotice c subject detail s = s := if_pos masked

theorem raiseNotice_open (isOpen : (s.reporting.classes.get c).masked = false)
    (notice : n = {
      cls := c, priority := (s.reporting.classes.get c).priority, subject := subject
      detail := detail, second := s.time.second }) :
    raiseNotice c subject detail s = afterNotice (enterNotice n s) := by
  rw [notice]
  exact if_neg (by rw [isOpen]; decide)

/-- A busy line, or an execution, keeps the line from choosing. -/
theorem afterNotice_kept (waits : s.lineBusy = true ∨ s.command.processor = .executing) :
    afterNotice s = s := by
  unfold afterNotice
  split
  next => rfl
  next other => exact transmitChoice_busy s (waits.resolve_right other)

theorem enterNotice_room (room : s.reporting.notices.length < 16) : enterNotice n s =
    { s with reporting := { s.reporting with notices := insertNotice n s.reporting.notices } } :=
  if_pos room

theorem enterNotice_displaces (full : 16 ≤ s.reporting.notices.length)
    (lower : lowestPriority s.reporting.notices < n.priority) : enterNotice n s = noticeLost
      { s with reporting := { s.reporting with
        notices := insertNotice n
          (removeEarliest (lowestPriority s.reporting.notices) s.reporting.notices) } } :=
  (if_neg (Nat.not_lt.2 full)).trans (if_pos lower)

theorem enterNotice_lost (full : 16 ≤ s.reporting.notices.length)
    (notLower : n.priority ≤ lowestPriority s.reporting.notices) : enterNotice n s = noticeLost s :=
  (if_neg (Nat.not_lt.2 full)).trans (if_neg (Nat.not_lt.2 notLower))

end

/-- In transmit order the earliest notice of the lowest priority stands behind every higher one and ahead
of the others of its own. -/
theorem earliest_of_lowest {q : List Notice} (ordered : q.Pairwise fun a b => b.priority ≤ a.priority)
    (some : q ≠ []) : ∃ kept lost later, q = kept ++ lost :: later ∧
      lost.priority = lowestPriority q ∧ (∀ m ∈ kept, lost.priority < m.priority) ∧
      (∀ m ∈ later, m.priority = lost.priority) ∧
      removeEarliest (lowestPriority q) q = kept ++ later := by
  obtain ⟨least, attained⟩ := lowestPriority_least q some
  obtain ⟨kept, lost, later, split, lowest, others, removed⟩ := removeEarliest_first _ q attained
  have lowestMem {m : Notice} (mem : m ∈ kept ++ lost :: later) : lost.priority ≤ m.priority := by
    rw [lowest]; exact least m (split ▸ mem)
  refine ⟨kept, lost, later, split, lowest, fun m mem => ?_, fun m mem => ?_, removed⟩
  · exact lt_of_le_of_ne (lowestMem (by simp [mem])) fun same => others m mem (same ▸ lowest)
  · rw [split, List.pairwise_append, List.pairwise_cons] at ordered
    obtain ⟨_, ⟨behind, _⟩, _⟩ := ordered
    exact le_antisymm (behind m mem) (lowestMem (by simp [mem]))

/-- A code is that of the list in which its choice stands. -/
theorem code_of_listed {α : Type} {f : α → Nat} {a : α} {n : Nat} {l : List (α × Nat)}
    (listed : (a, n) ∈ l) (each : ∀ p ∈ l, f p.1 = p.2) : f a = n := each _ listed

/-- Settles O50: a raised notice is placed, lost or displaces one, and the line chooses if it may. -/
theorem noticesWaitInTransmitOrder : Obligations.NoticesWaitInTransmitOrder := by
  refine ⟨?_, rfl, ⟨rfl, rfl, rfl⟩, fun s i => ⟨?_, ?_⟩, ?_⟩
  · intro n kind value none source view ingest queue
    refine noticeBody_carries ?_
    cases subject : n.subject with
    | none => obtain ⟨rfl, rfl⟩ := none subject; rfl
    | source i => obtain ⟨rfl, rfl⟩ := source i subject; rfl
    | view v => obtain ⟨rfl, rfl⟩ := view v subject; rfl
    | ingest l => obtain ⟨rfl, rfl⟩ := ingest l subject; rfl
    | queue d => obtain ⟨rfl, rfl⟩ := queue d subject; rfl
  · intro cause code numbered quality coded
    have ofCause : cause.code = code := code_of_listed numbered (by decide)
    have ofQuality : s.time.quality.code = quality := code_of_listed coded (by decide)
    rw [raiseTime, ofCause, ofQuality]
  · intro cause code numbered
    have ofCause : cause.code = code := code_of_listed numbered (by decide)
    rw [raiseSource, ofCause]
  · intro s c subject detail n notice
    refine ⟨raiseNotice_masked, fun isOpen idle outside noReply noNotice => ?_,
      fun isOpen waits ordered => ⟨fun room => ?_, fun full => ⟨fun lower => ?_, fun notLower => ?_⟩⟩⟩
    · rw [raiseNotice_open isOpen notice, enterNotice_room (by rw [noNotice]; decide), noNotice,
        afterNotice, if_neg outside]
      refine (transmitChoice_notice (n := n) (rest := []) (s := { s with
        reporting := { s.reporting with notices := [n] } }) idle noReply rfl).trans ?_
      rw [← noNotice]
    · obtain ⟨before, after, split, higher, below, inserted⟩ := insertNotice_place n _ ordered
      refine ⟨before, after, split, higher, below, ?_⟩
      rw [raiseNotice_open isOpen notice, enterNotice_room room, inserted]
      exact afterNotice_kept waits
    · obtain ⟨m, mem, less⟩ := lower
      obtain ⟨kept, lost, later, split, lowest, above, same, removed⟩ :=
        earliest_of_lowest ordered (List.ne_nil_of_mem mem)
      have displaced : lowestPriority s.reporting.notices < n.priority :=
        ((lowestPriority_least _ (List.ne_nil_of_mem mem)).1 m mem).trans_lt less
      have remaining : (kept ++ later).Pairwise fun a b => b.priority ≤ a.priority := by
        refine (split ▸ ordered).sublist ?_
        exact (List.Sublist.refl kept).append (List.sublist_cons_self ..)
      obtain ⟨before, after, cut, higher, below, inserted⟩ := insertNotice_place n _ remaining
      refine ⟨before, after, kept, lost, later, split, above, same, cut, higher, below, ?_⟩
      rw [raiseNotice_open isOpen notice, enterNotice_displaces full displaced, removed, inserted]
      exact afterNotice_kept waits
    · have none : n.priority ≤ lowestPriority s.reporting.notices := by
        obtain ⟨m, mem, attains⟩ := (lowestPriority_least s.reporting.notices fun empty => by
          rw [empty] at full; cases full).2
        rw [← attains]
        exact notLower m mem
      rw [raiseNotice_open isOpen notice, enterNotice_lost full none]
      exact afterNotice_kept waits

end Sys2Proof.Machine

/-! PROOFS (the other statements). What the reading requests report, field by field, and what their clear
options zero (O51). Each writer of a reply carries its fields; a reply carries those of its writers. -/

namespace Sys2Proof.Machine

/-! ## The items of the replies -/

/-- Bytes carry a list of fields however it is written. -/
theorem carries_of_fields {f g : List WireField} {b : List Byte} (read : carries f b) (same : f = g) :
    carries g b := same ▸ read

/-- A choice of two, as an option. -/
theorem carries_choice {n : Nat} {b : Bool} (code : n = if b then 1 else 0) :
    carries [flagField b] (be1 n) := by
  rw [code]; exact carries_be1 _

theorem carries_logEntry (e : LogEntry) :
    carries [(2, some e.id.toNat), (1, some e.link.index), (4, some e.firstSeen),
      (4, some (e.count - 1))] (logEntryBytes e) := by
  simp only [logEntryBytes, List.append_assoc]
  exact carries_cons (carries_be2 _) <| carries_cons (carries_be1 _) <|
    carries_cons (carries_be4 _) <| carries_be4 _

theorem carries_sourceCounters (c : SourceCounters) :
    carries (fieldsOf 4 [c.accepted, c.suspendedDrops, c.wrongLink, c.notRunning, c.badShape,
      c.badTime, c.decimated, c.misaligned, c.duplicate, c.late, c.early, c.noSlot,
      c.storeFull, c.held, c.absent, c.stalls, c.remoteRefused, c.badDescription,
      c.descriptions]) (sourceCounterBytes c) := by
  simpa [sourceCounterBytes] using carries_counts [c.accepted, c.suspendedDrops, c.wrongLink,
    c.notRunning, c.badShape, c.badTime, c.decimated, c.misaligned, c.duplicate, c.late, c.early,
    c.noSlot, c.storeFull, c.held, c.absent, c.stalls, c.remoteRefused, c.badDescription,
    c.descriptions]

theorem carries_options (o : SourceOptions) :
    carries [flagField o.required, flagField (o.holdPolicy = .hold), (1, some o.holdLimit),
      (4, some o.tolerance), flagField o.reReference, (1, some o.qualityLimit),
      (1, some (o.stallThreshold - 1)), flagField o.remoteAllowed] (optionBytes o) := by
  have policy : o.holdPolicy.code = if decide (o.holdPolicy = .hold) then 1 else 0 := by
    cases o.holdPolicy <;> rfl
  simp only [optionBytes, List.append_assoc]
  exact carries_cons (carries_optionByte _) <| carries_cons (carries_choice policy) <|
    carries_cons (carries_be1 _) <| carries_cons (carries_be4 _) <|
    carries_cons (carries_optionByte _) <| carries_cons (carries_be1 _) <|
    carries_cons (carries_be1 _) <| carries_optionByte _

theorem carries_entry (n i : Nat) (e : Entry) (held : Bool) :
    carries ([(2, some i), (2, some e.id.toNat), (1, some (linkSetCode e.links)),
        (1, some e.shape.rate), (3, some e.shape.timeBase), (1, some (e.shape.phasors - 1)),
        (1, some e.shape.analogs), flagField (e.shape.order = .little),
        flagField e.options.required, flagField (e.options.holdPolicy = .hold),
        (1, some e.options.holdLimit), (4, some e.options.tolerance),
        flagField e.options.reReference, (1, some e.options.qualityLimit),
        (1, some (e.options.stallThreshold - 1)), flagField e.options.remoteAllowed,
        (1, some e.state.code), (4, some e.latency)] ++ (maybeField 8 e.receipt.newest ++
      ([(8, some (e.receipt.marks.toNat / 2)), (4, some e.missCount), (4, some e.heldCount),
        flagField held] ++
      fieldsOf 4 [e.counters.accepted, e.counters.suspendedDrops, e.counters.wrongLink,
        e.counters.notRunning, e.counters.badShape, e.counters.badTime, e.counters.decimated,
        e.counters.misaligned, e.counters.duplicate, e.counters.late, e.counters.early,
        e.counters.noSlot, e.counters.storeFull, e.counters.held, e.counters.absent,
        e.counters.stalls, e.counters.remoteRefused, e.counters.badDescription,
        e.counters.descriptions]))) (entryBytes n i e held) := by
  have order : e.shape.order.code = if decide (e.shape.order = .little) then 1 else 0 := by
    cases e.shape.order <;> rfl
  have marks : carries [(8, some (e.receipt.marks.toNat / 2))] (markBytes e.receipt) := by
    rw [markBytes, BitVec.toNat_ushiftRight, Nat.shiftRight_eq_div_pow, pow_one]
    exact carries_be8 _
  simp only [entryBytes, List.append_assoc]
  refine carries_of_fields (carries_cons (carries_be2 _) <| carries_cons (carries_be2 _) <|
    carries_cons (carries_be1 _) <| carries_cons (carries_be1 _) <|
    carries_cons (carries_beBytes ..) <| carries_cons (carries_be1 _) <|
    carries_cons (carries_be1 _) <| carries_cons (carries_choice order) <|
    carries_append (carries_options e.options) <| carries_cons (carries_be1 _) <|
    carries_cons (carries_be4 _) <| carries_append (carries_maybeBytes ..) <|
    carries_cons marks <| carries_cons (carries_be4 _) <| carries_cons (carries_be4 _) <|
    carries_cons (carries_optionByte _) <| carries_sourceCounters _) ?_
  simp [fieldsOf]

/-! ## Views -/

theorem carries_listEntry (e : ListEntry) :
    carries [(2, some e.source), (2, some e.phasors.toNat), (1, some e.analogs.toNat)]
      (listEntryBytes e) := by
  simp only [listEntryBytes, List.append_assoc]
  exact carries_cons (carries_be2 _) <| carries_cons (carries_be2 _) <| carries_be1 _

theorem carries_descriptor (d : Descriptor) :
    carries ([(1, some d.tag), (1, some d.divisor), (1, some d.destination.code),
         flagField d.completeOnly, flagField (d.angleForm = .cdeg),
         flagField (d.magnitudeForm = .m16), (1, some d.shift), flagField (d.order = .little),
         flagField d.includeFrequency, (1, some (d.sources.length - 1))] ++
        d.sources.flatMap fun e =>
          [(2, some e.source), (2, some e.phasors.toNat), (1, some e.analogs.toNat)])
      (descriptorBytes d) := by
  have angle : d.angleForm.code = if decide (d.angleForm = .cdeg) then 1 else 0 := by
    cases d.angleForm <;> rfl
  have magnitude : d.magnitudeForm.code = if decide (d.magnitudeForm = .m16) then 1 else 0 := by
    cases d.magnitudeForm <;> rfl
  have order : d.order.code = if decide (d.order = .little) then 1 else 0 := by
    cases d.order <;> rfl
  simp only [descriptorBytes, List.append_assoc]
  exact carries_cons (carries_be1 _) <| carries_cons (carries_be1 _) <|
    carries_cons (carries_be1 _) <| carries_cons (carries_optionByte _) <|
    carries_cons (carries_choice angle) <| carries_cons (carries_choice magnitude) <|
    carries_cons (carries_be1 _) <| carries_cons (carries_choice order) <|
    carries_cons (carries_optionByte _) <| carries_cons (carries_be1 _) <|
    carries_flatMap _ _ _ fun e _ => carries_listEntry e

theorem carries_absentDescriptor (n k : Nat) :
    carries [(9, none), (1, some 0), (5, none)] (absentDescriptor n k) := by
  simp only [absentDescriptor, List.append_assoc]
  exact carries_cons (carries_absentBytes ..) <| carries_cons (carries_be1 0) <| carries_absentBytes ..

section
variable {descriptor : Option Descriptor → List WireField}
  (none_fields : descriptor none = [(9, none), (1, some 0), (5, none)])
  (some_fields : ∀ d, descriptor (some d) =
    [(1, some d.tag), (1, some d.divisor), (1, some d.destination.code),
     flagField d.completeOnly, flagField (d.angleForm = .cdeg),
     flagField (d.magnitudeForm = .m16), (1, some d.shift), flagField (d.order = .little),
     flagField d.includeFrequency, (1, some (d.sources.length - 1))] ++
    d.sources.flatMap fun e =>
      [(2, some e.source), (2, some e.phasors.toNat), (1, some e.analogs.toNat)])
include none_fields some_fields

theorem carries_maybeDescriptor (n k : Nat) (d : Option Descriptor) :
    carries (descriptor d) (maybeDescriptor n k d) := by
  cases d with
  | none => rw [none_fields]; exact carries_absentDescriptor n k
  | some d => rw [some_fields]; exact carries_descriptor d

theorem carries_view (n : Nat) (w : View) :
    carries (flagField w.current.isSome :: flagField w.current.isSome :: (descriptor w.current ++
        (flagField w.staged.isSome ::
          ((w.staged.elim (descriptor none ++ [(5, none)]) fun st =>
            descriptor st.content ++
              [(4, some st.effectiveSecond), flagField st.content.isNone]) ++
        [(2, some w.revision.toNat), (4, some w.setsBuilt), (4, some w.skippedIncomplete)]))))
      (viewBytes n w) := by
  have described := carries_maybeDescriptor none_fields some_fields n
  have staged : carries (w.staged.elim (descriptor none ++ [(5, none)]) fun st =>
      descriptor st.content ++ [(4, some st.effectiveSecond), flagField st.content.isNone])
      (match w.staged with
       | some st =>
        maybeDescriptor n 14 st.content ++ be4 st.effectiveSecond ++ optionByte st.content.isNone
       | none => absentDescriptor n 14 ++ absentBytes n 28 5) := by
    cases w.staged with
    | none => exact carries_append (described 14 none) (carries_absentBytes ..)
    | some st =>
      simp only [List.append_assoc]
      exact carries_append (described 14 st.content) <| carries_cons (carries_be4 _) <|
        carries_optionByte _
  simp only [viewBytes, List.append_assoc] at staged ⊢
  exact carries_cons (carries_choice rfl) <| carries_cons (carries_optionByte _) <|
    carries_append (described 0 w.current) <| carries_cons (carries_optionByte _) <|
    carries_append staged <| carries_cons (carries_be2 _) <| carries_cons (carries_be4 _) <|
    carries_be4 _

end

/-! ## Release queues -/

theorem carries_sending (n k : Nat) (q : ReleaseQueue) :
    carries (if q.sending then
        q.sets.head?.elim [(1, some 0), (6, none)] fun o =>
          [(1, some 1), (1, some o.tag), (4, some o.second), (1, some o.index)]
      else [(1, some 0), (6, none)]) (sendingBytes n k q) := by
  have none : carries [(1, some 0), (6, none)] (be1 0 ++ absentBytes n k 6) :=
    carries_cons (carries_be1 0) (carries_absentBytes ..)
  unfold sendingBytes
  cases q.sending with
  | false => exact none
  | true =>
    cases q.sets with
    | nil => exact none
    | cons o rest =>
      simp only [List.append_assoc]
      exact carries_cons (carries_be1 1) <| carries_cons (carries_be1 _) <|
        carries_cons (carries_be4 _) <| carries_be1 _

theorem carries_releaseLink (n k : Nat) (l : RelId) (s : State) (q : ReleaseQueue)
    (queue : q = s.release.queue l.destination) :
    carries ([flagField (!s.enabled l), (1, some (s.linkState l).code), flagField (s.busy l),
         (4, some q.sets.length)] ++
        ((if q.sending then
          q.sets.head?.elim [(1, some 0), (6, none)] fun o =>
            [(1, some 1), (1, some o.tag), (4, some o.second), (1, some o.index)]
         else [(1, some 0), (6, none)]) ++
        fieldsOf 4 [q.counters.queued, q.counters.disabledDrops, q.counters.dropped,
          q.counters.sent, q.counters.cut, q.counters.inhibitedDrops, q.counters.flushed]))
      (releaseLinkBytes n k l s) := by
  subst queue
  have switch : (if s.enabled l then 0 else 1) = if !s.enabled l then 1 else 0 := by
    cases s.enabled l <;> rfl
  simp only [releaseLinkBytes, switchBytes, List.append_assoc]
  refine carries_of_fields (carries_cons (carries_choice switch) <| carries_cons (carries_be1 _) <|
    carries_cons (carries_optionByte _) <| carries_cons (carries_be4 _) <|
    carries_append (carries_sending ..) <| carries_cons (carries_be4 _) <|
    carries_cons (carries_be4 _) <| carries_cons (carries_be4 _) <| carries_cons (carries_be4 _) <|
    carries_cons (carries_be4 _) <| carries_cons (carries_be4 _) <| carries_be4 _) ?_
  simp [fieldsOf]

theorem carries_commandQueue (q : ReleaseQueue) :
    carries ([(4, some q.sets.length), flagField q.sending] ++
      fieldsOf 4 [q.counters.queued, q.counters.dropped, q.counters.sent, q.counters.cut,
        q.counters.inhibitedDrops, q.counters.flushed]) (commandQueueBytes q) := by
  simp only [commandQueueBytes, List.append_assoc]
  exact carries_cons (carries_be4 _) <| carries_cons (carries_optionByte _) <|
    carries_cons (carries_be4 _) <| carries_cons (carries_be4 _) <| carries_cons (carries_be4 _) <|
    carries_cons (carries_be4 _) <| carries_cons (carries_be4 _) <| carries_be4 _

/-! ## The part -/

theorem carries_slotCounts (s : State) :
    carries (fieldsOf 4 ([SlotState.opened, .ready, .closed, .assembling].map fun st =>
      (s.window.slots.filter fun p => p.2.state = st).length)) (slotCountBytes s) := by
  simp only [slotCountBytes, List.append_assoc]
  exact carries_cons (carries_be4 _) <| carries_cons (carries_be4 _) <|
    carries_cons (carries_be4 _) <| carries_be4 _

theorem carries_commandCounters (c : CommandCounters) :
    carries (fieldsOf 4 [c.huntBytes, c.lengthError, c.crcError, c.kindError, c.requestsTaken,
      c.busyReplies, c.unanswered, c.repliesSent, c.busySent, c.noticesSent])
      (commandCounterBytes c) := by
  simpa [commandCounterBytes] using carries_counts [c.huntBytes, c.lengthError, c.crcError,
    c.kindError, c.requestsTaken, c.busyReplies, c.unanswered, c.repliesSent, c.busySent,
    c.noticesSent]

theorem carries_status (s : State) :
    carries ((1, some s.reporting.opState.code) :: flagField s.reporting.startMark ::
          (s.reporting.faults.toList.map flagField ++
          (s.reporting.alertEnables.toList.map flagField ++
          ([flagField (!s.alert), (1, some s.time.quality.code), (4, some s.time.second)] ++
          (maybeField 4 s.time.pendingSecond ++ (maybeField 8 s.window.horizon ++
          (maybeField 8 s.windowBase ++
          (fieldsOf 4 ([SlotState.opened, .ready, .closed, .assembling].map fun st =>
            (s.window.slots.filter fun p => p.2.state = st).length) ++
          (fieldsOf 4 [s.window.freeRecords, s.window.assemblyQueue.length] ++
          (maybeField 8 s.assembler.current ++
          fieldsOf 4 [s.window.counters.skippedInstants, s.release.queue0.sets.length,
            s.release.queue1.sets.length, s.release.commandQueue.sets.length,
            s.reporting.notices.length, s.reporting.lostNotices, s.command.requests.length,
            s.command.replies.length, s.command.counters.huntBytes,
            s.command.counters.lengthError, s.command.counters.crcError,
            s.command.counters.kindError, s.command.counters.requestsTaken,
            s.command.counters.busyReplies, s.command.counters.unanswered,
            s.command.counters.repliesSent, s.command.counters.busySent,
            s.command.counters.noticesSent])))))))))) (statusBytes s) := by
  unfold statusBytes
  simp only [List.append_assoc]
  refine carries_of_fields (carries_cons (carries_be1 _) <| carries_cons (carries_optionByte _) <|
    carries_append (carries_flagBytes _) <| carries_append (carries_flagBytes _) <|
    carries_cons (carries_optionByte _) <| carries_cons (carries_be1 _) <|
    carries_cons (carries_be4 _) <| carries_append (carries_maybeBytes ..) <|
    carries_append (carries_maybeBytes ..) <| carries_append (carries_maybeBytes ..) <|
    carries_append (carries_slotCounts s) <| carries_cons (carries_be4 _) <|
    carries_cons (carries_be4 _) <| carries_append (carries_maybeBytes ..) <|
    carries_cons (carries_be4 _) <| carries_cons (carries_be4 _) <| carries_cons (carries_be4 _) <|
    carries_cons (carries_be4 _) <| carries_cons (carries_be4 _) <| carries_cons (carries_be4 _) <|
    carries_cons (carries_be4 _) <| carries_cons (carries_be4 _) <| carries_commandCounters _) ?_
  simp [fieldsOf, State.alertHigh]

/-! ## The window -/

theorem carries_windowCounters (c : WindowCounters) :
    carries (fieldsOf 4 [c.openedByCadence, c.openedByArrival, c.closedComplete, c.closedDeadline,
      c.closedDemand, c.closedPressure, c.closedOverrun, c.closedStop, c.skippedInstants,
      c.overdueMarks, c.noSlot]) (windowCounterBytes c) := by
  simpa [windowCounterBytes] using carries_counts [c.openedByCadence, c.openedByArrival,
    c.closedComplete, c.closedDeadline, c.closedDemand, c.closedPressure, c.closedOverrun,
    c.closedStop, c.skippedInstants, c.overdueMarks, c.noSlot]

/-- The fields of a slot in the slot list. -/
def slotFields (p : Nat × Slot) : List WireField :=
  [(8, some p.1), (1, some p.2.state.code), (1, some p.2.opener.code), (8, some p.2.deadline),
   (4, some p.2.contributors.length), flagField p.2.overdue] ++
  maybeField 1 (p.2.closeReason.map CloseReason.code)

theorem carries_slot (n k instant : Nat) (slot : Slot) :
    carries (slotFields (instant, slot)) (slotBytes n k instant slot) := by
  simp only [slotBytes, List.append_assoc]
  exact carries_cons (carries_be8 _) <| carries_cons (carries_be1 _) <|
    carries_cons (carries_be1 _) <| carries_cons (carries_be8 _) <| carries_cons (carries_be4 _) <|
    carries_cons (carries_optionByte _) <| carries_maybeBytes ..

theorem carries_slotList (n k : Nat) (slots : Table Slot) :
    carries (slots.flatMap slotFields) (slotListBytes n k slots) := by
  induction slots generalizing k with
  | nil => rfl
  | cons p slots ih => exact carries_append (carries_slot n k p.1 p.2) (ih (k + 1))

theorem carries_detail (slot : Option Slot) :
    carries (slot.elim [(1, some 0), (2, some 0)] fun slot =>
        (1, some 1) :: (2, some slot.contributors.length) ::
          slot.contributors.map fun p => (2, some p.1)) (detailBytes slot) := by
  cases slot with
  | none => exact carries_cons (carries_be1 0) (carries_be2 0)
  | some slot =>
    have contributors := carries_flatMap slot.contributors (fun p => [(2, some p.1)])
      (fun p => be2 p.1) fun p _ => carries_be2 p.1
    rw [← List.map_eq_flatMap] at contributors
    simp only [detailBytes, List.append_assoc]
    exact carries_cons (carries_be1 1) <| carries_cons (carries_be2 _) contributors

theorem carries_releaseConfig (c : ReleaseConfig) :
    carries [(1, some c.mode.code), (1, some c.wait.code), (1, some c.fixedCode),
      (1, some c.capCode), (4, some c.minWait), (4, some c.margin), (2, some c.lowWater)]
      (releaseConfigBytes c) := by
  simp only [releaseConfigBytes, List.append_assoc]
  exact carries_cons (carries_be1 _) <| carries_cons (carries_be1 _) <|
    carries_cons (carries_be1 _) <| carries_cons (carries_be1 _) <| carries_cons (carries_be4 _) <|
    carries_cons (carries_be4 _) <| carries_be2 _

theorem waitNow_eq (c : ReleaseConfig) (largest : Nat) : waitNow c largest =
    if c.wait = .fixed then waitGrains c.fixedCode
    else min (max (largest + c.margin) c.minWait) (waitGrains c.capCode) := by
  rw [waitNow]; cases c.wait <;> rfl

theorem carries_window (s : State) (detail : Option Nat) (w : Window) (c : ReleaseConfig)
    (window : w = s.window) (config : c = w.config) :
    carries
      (maybeField 8 w.horizon ++ (maybeField 8 s.windowBase ++
        (fieldsOf 4 ([SlotState.opened, .ready, .closed, .assembling].map fun st =>
          (w.slots.filter fun p => p.2.state = st).length) ++
        (fieldsOf 4 [w.freeRecords, s.reclaimable, w.assemblyQueue.length] ++
        (maybeField 8 s.assembler.current ++
        ([(1, some c.mode.code), (1, some c.wait.code), (1, some c.fixedCode),
         (1, some c.capCode), (4, some c.minWait), (4, some c.margin), (2, some c.lowWater),
         (4, some (lmax s.sources)),
         (4, some (if c.wait = .fixed then waitGrains c.fixedCode
           else min (max (lmax s.sources + c.margin) c.minWait) (waitGrains c.capCode)))] ++
        (fieldsOf 4 [w.counters.openedByCadence, w.counters.openedByArrival,
          w.counters.closedComplete, w.counters.closedDeadline, w.counters.closedDemand,
          w.counters.closedPressure, w.counters.closedOverrun, w.counters.closedStop,
          w.counters.skippedInstants, w.counters.overdueMarks, w.counters.noSlot] ++
        ((2, some w.slots.length) :: (w.slots.flatMap slotFields ++
        (detail.bind s.slot?).elim [(1, some 0), (2, some 0)] fun slot =>
            (1, some 1) :: (2, some slot.contributors.length) ::
              slot.contributors.map fun p => (2, some p.1)))))))))) (windowBytes s detail) := by
  subst window config
  rw [← waitNow_eq]
  simp only [windowBytes, List.append_assoc]
  refine carries_of_fields (carries_append (carries_maybeBytes ..) <| carries_append (carries_maybeBytes ..) <|
    carries_append (carries_slotCounts s) <| carries_cons (carries_be4 _) <|
    carries_cons (carries_be4 _) <| carries_cons (carries_be4 _) <|
    carries_append (carries_maybeBytes ..) <| carries_append (carries_releaseConfig _) <|
    carries_cons (carries_be4 _) <| carries_cons (carries_be4 _) <|
    carries_append (carries_windowCounters _) <| carries_cons (carries_be2 _) <|
    carries_append (carries_slotList ..) <| carries_detail _) ?_
  simp [fieldsOf]

/-! ## The requests -/

section
variable {s : State} {r : Request} {rest : List Request}

/-- A request that its owner accepts is answered OK, with the state its effect leaves. -/
theorem answer_accepted {code : Nat} {f : Request → State → Execution} {u : State} {bytes : List Byte}
    (executes : s.Executes code r rest)
    (accepted : f r (s.withProcessor .executing) = .accept (u.withProcessor .executing) bytes) :
    answer (runRequest code f s) = .next (finishRequest r .ok bytes u) := by
  rw [answer_runRequest executes, accepted, conclude, finishRequest_withProcessor]

/-- The effect of a clear option. -/
theorem withProcessor_ite {p : Processor} {c : Prop} [Decidable c] (a b : State) :
    (if c then a.withProcessor p else b.withProcessor p) = (if c then a else b).withProcessor p :=
  (apply_ite (State.withProcessor p) c a b).symm

theorem onView_index {f : List Byte} {v : ViewId} {k : ViewId → Execution}
    (index : fieldAt f 0 1 = v.index) : onView f k = k v := by
  rw [onView, index]
  cases v <;> rfl

theorem selectedSource_mapped {f : List Byte} (byId : fieldAt f 0 1 = 0) : selectedSource f s =
    (mappedEntry (BitVec.ofNat 16 (fieldAt f 1 2)) s.sources).map (·.1) := if_pos byId

theorem selectedSource_indexed {f : List Byte} (byIndex : fieldAt f 0 1 = 1) : selectedSource f s =
    if (s.entry (fieldAt f 1 2)).state = .unused then none else some (fieldAt f 1 2) :=
  if_neg (by rw [byIndex]; decide)

/-- The fields of READ_SOURCE that check 4 passes (R68). -/
def selectionValid (f : List Byte) : Bool :=
  decide (fieldAt f 0 1 ≤ 1) && decide (fieldAt f 3 1 ≤ 1) &&
    (if fieldAt f 0 1 = 0 then decide (1 ≤ fieldAt f 1 2) && decide (fieldAt f 1 2 ≤ 65534)
     else decide (fieldAt f 1 2 ≤ 1023))

theorem selectionValid_iff {f : List Byte} : selectionValid f = true ↔
    fieldAt f 0 1 ≤ 1 ∧ fieldAt f 3 1 ≤ 1 ∧
      (fieldAt f 0 1 = 0 → 1 ≤ fieldAt f 1 2 ∧ fieldAt f 1 2 ≤ 65534) ∧
      (fieldAt f 0 1 = 1 → fieldAt f 1 2 ≤ 1023) := by
  unfold selectionValid
  by_cases byId : fieldAt f 0 1 = 0
  · simp [byId]
  · rw [if_neg byId]
    simp only [Bool.and_eq_true, decide_eq_true_eq]
    omega

theorem readSource_eq (length : r.fields.length = 4) (valid : selectionValid r.fields = true) :
    readSource r s = match selectedSource r.fields s with
     | none => .refuse .notFound
     | some i =>
      .accept (if fieldAt r.fields 3 1 = 1 then s.countSource i fun _ => {} else s)
        (entryBytes s.freeCount i (s.entry i) (s.hold? i).isSome) :=
  checks_pass (decide_eq_true length) rfl valid

theorem readSource_notFound (length : r.fields.length = 4) (valid : selectionValid r.fields = true)
    (none : selectedSource r.fields s = none) : readSource r s = .refuse .notFound := by
  rw [readSource_eq length valid, none]

theorem exec_readSource {i : Nat} (executes : s.Executes 14 r rest) (length : r.fields.length = 4)
    (valid : selectionValid r.fields = true) (selected : selectedSource r.fields s = some i) :
    exec .readSource s = .next (finishRequest r .ok
      (entryBytes s.freeCount i (s.entry i) (s.hold? i).isSome)
      (if fieldAt r.fields 3 1 = 1 then s.countSource i fun _ => {} else s)) := by
  refine answer_accepted executes ?_
  rw [readSource_eq length valid, show selectedSource r.fields (s.withProcessor .executing) = some i
    from selected, ← withProcessor_ite]
  rfl

end

/-- Settles O51: each reply carries the items of its writers, and the clear option zeroes after it. -/
theorem readingRequestsReportAndClear : Obligations.ReadingRequestsReportAndClear := by
  rintro s r rest f rfl
  refine ⟨⟨rfl, rfl, rfl, rfl, rfl, rfl, rfl, rfl, rfl, rfl⟩, fun executes length => ?_,
    fun executes length => ?_, fun executes length => ⟨fun ok => ?_, fun bad => ?_⟩,
    fun executes length valid valid_iff => ?_,
    fun executes length descriptor none_fields some_fields =>
      ⟨fun v w index clear made => ?_, fun bad => ?_⟩,
    fun executes length link links => ⟨fun ok q queue => ?_, fun bad => ?_⟩,
    fun executes length => ⟨fun ok detail w c window config => ?_, fun bad => ?_⟩⟩
  · exact answer_accepted executes (checks_pass (decide_eq_true length) rfl rfl)
  · refine ⟨statusBytes s, answer_accepted executes (checks_pass (decide_eq_true length) rfl rfl), ?_⟩
    simpa only [List.append_assoc, List.cons_append, List.nil_append] using carries_status s
  · refine ⟨be2 s.ingest.log.length ++ s.ingest.log.flatMap logEntryBytes,
      answer_accepted executes ?_, ?_⟩
    · rw [readUnknownLog, checks_pass (decide_eq_true length) rfl (decide_eq_true ok),
        ← withProcessor_ite]
      rfl
    · exact carries_cons (carries_be2 _) (carries_flatMap _ _ _ fun e _ => carries_logEntry e)
  · exact answer_refused executes (checks_badField (decide_eq_true length) rfl
      (decide_eq_false (by omega)))
  · rw [valid_iff, ← selectionValid_iff]
    refine ⟨fun invalid => ?_, fun ok => ⟨fun byId none => ?_, fun byIndex unused => ?_, ?_⟩⟩
    · exact answer_refused executes (checks_badField (decide_eq_true length) rfl
        (Bool.eq_false_iff.2 invalid))
    · refine answer_refused executes (readSource_notFound length ok ?_)
      rw [selectedSource_mapped byId]
      exact congrArg _ none
    · refine answer_refused executes (readSource_notFound length ok ?_)
      rw [selectedSource_indexed byIndex]
      exact if_pos unused
    · rintro i _ e' _ _ selects rfl rfl rfl
      have selected : selectedSource r.fields s = some i := by
        obtain ⟨byId, mapped⟩ | ⟨byIndex, rfl, used⟩ := selects
        · rw [selectedSource_mapped byId, mapped]; rfl
        · rw [selectedSource_indexed byIndex, if_neg used]
      refine ⟨_, exec_readSource executes length ok selected, ?_⟩
      refine carries_of_fields (carries_entry s.freeCount i (s.entry i) (s.hold? i).isSome) ?_
      simp only [List.append_assoc]
      rfl
  · subst made
    refine ⟨viewBytes s.freeCount (s.view v), answer_accepted executes ?_, ?_⟩
    · have inRange : fieldAt r.fields 0 1 ≤ 7 := by rw [index]; cases v <;> decide
      rw [readView, checks_pass (decide_eq_true length) rfl (by simp [inRange, clear]),
        onView_index index, ← withProcessor_ite]
      rfl
    · simpa only [List.append_assoc, List.cons_append] using
        carries_view none_fields some_fields s.freeCount (s.view v)
  · refine answer_refused executes (checks_badField (decide_eq_true length) rfl ?_)
    rw [Bool.and_eq_false_iff, decide_eq_false_iff_not, decide_eq_false_iff_not]
    omega
  · subst queue
    refine ⟨releaseLinkBytes s.freeCount 0 .rl0 s ++ releaseLinkBytes s.freeCount 6 .rl1 s ++
      commandQueueBytes s.release.commandQueue ++ optionByte s.pins.inhibit,
      answer_accepted executes ?_, ?_⟩
    · rw [readReleaseLinks, checks_pass (decide_eq_true length) rfl (decide_eq_true ok),
        ← withProcessor_ite]
      rfl
    · have ofLink (k : Nat) (l : RelId) : carries (link l) (releaseLinkBytes s.freeCount k l s) :=
        carries_of_fields (carries_releaseLink s.freeCount k l s _ rfl) (by
          rw [links l _ rfl, List.append_assoc])
      have read := carries_append (carries_append (carries_append (ofLink 0 .rl0) (ofLink 6 .rl1))
        (carries_commandQueue s.release.commandQueue)) (carries_optionByte s.pins.inhibit)
      simpa only [List.append_assoc] using read
  · exact answer_refused executes (checks_badField (decide_eq_true length) rfl
      (decide_eq_false (by omega)))
  · refine ⟨windowBytes s (if fieldAt r.fields 1 1 = 1 then some (fieldAt r.fields 2 8) else none),
      answer_accepted executes ?_, ?_⟩
    · rw [readWindow, checks_pass (decide_eq_true length) rfl (by simp [ok, detail]),
        ← withProcessor_ite]
      rfl
    · have found : (if fieldAt r.fields 1 1 = 1 then s.slot? (fieldAt r.fields 2 8) else none) =
          (if fieldAt r.fields 1 1 = 1 then some (fieldAt r.fields 2 8) else none).bind s.slot? := by
        split <;> rfl
      rw [found]
      refine carries_of_fields (carries_window s _ w c window config) ?_
      simp only [List.append_assoc, List.cons_append, List.nil_append]
      rfl
  · refine answer_refused executes (checks_badField (decide_eq_true length) rfl ?_)
    rw [Bool.and_eq_false_iff, decide_eq_false_iff_not, decide_eq_false_iff_not]
    omega

end Sys2Proof.Machine

/-! PROOFS (the other statements). The configuration requests of the grid, the release, the Time Reference
and the ingest side (O52 to O54). -/

namespace Sys2Proof.Machine

section
variable {s : State} {r : Request} {rest : List Request}

/-! ## CONFIGURE_GRID and CONFIGURE_RELEASE (R2, R116) -/

/-- The fields of CONFIGURE_GRID that check 4 passes (R2). -/
def gridValid (f : List Byte) (c : ReleaseConfig) : Bool :=
  (fieldAt f 0 1 = 50 || fieldAt f 0 1 = 60) && (rateFamily (fieldAt f 0 1)).contains (fieldAt f 1 1) &&
    waitsAllowed c.fixedCode c.capCode (fieldAt f 1 1)

theorem rateFamily_base {f0 rate : Nat} (mem : rate ∈ rateFamily f0) : f0 = 50 ∨ f0 = 60 := by
  unfold rateFamily at mem
  split at mem
  · exact .inl ‹_›
  split at mem
  · exact .inr ‹_›
  · cases mem

theorem waitsAllowed_iff {fixedCode capCode rate : Nat} : waitsAllowed fixedCode capCode rate = true ↔
    waitGrains fixedCode ≤ 200 * (6000000 / rate) ∧ waitGrains capCode ≤ 200 * (6000000 / rate) := by
  rw [waitsAllowed, Bool.and_eq_true, decide_eq_true_eq, decide_eq_true_eq]
  rfl

theorem gridValid_iff {f : List Byte} {c : ReleaseConfig} : gridValid f c = true ↔
    fieldAt f 1 1 ∈ rateFamily (fieldAt f 0 1) ∧
      waitGrains c.fixedCode ≤ 200 * (6000000 / fieldAt f 1 1) ∧
      waitGrains c.capCode ≤ 200 * (6000000 / fieldAt f 1 1) := by
  rw [gridValid, Bool.and_eq_true, Bool.and_eq_true, waitsAllowed_iff, Bool.or_eq_true,
    decide_eq_true_eq, decide_eq_true_eq, List.contains_iff_mem]
  exact ⟨fun ⟨⟨_, mem⟩, waits⟩ => ⟨mem, waits⟩, fun ⟨mem, waits⟩ => ⟨⟨rateFamily_base mem, mem⟩, waits⟩⟩

/-- A grid that the declared sources, the horizon or a descriptor hold in place (R2). -/
def State.GridInUse (s : State) (f0 rate : Nat) : Prop :=
  (f0 ≠ s.grid.f0 ∧ ∃ p ∈ s.sources, p.2.state ≠ .unused) ∨
    ((f0 ≠ s.grid.f0 ∨ rate ≠ s.grid.rate) ∧ s.window.horizon ≠ none) ∨
    ∃ v d, ((s.view v).current = some d ∨
      ∃ st, (s.view v).staged = some st ∧ st.content = some d) ∧ rate % d.divisor ≠ 0

/-- What a CONFIGURE_GRID whose fields are in range comes to. -/
theorem configureGrid_eq (length : r.fields.length = 3) (idle : s.reporting.opState = .idle)
    (valid : gridValid r.fields s.window.config = true) : configureGrid r s =
      if fieldAt r.fields 0 1 ≠ s.grid.f0 ∧ s.anySource then .refuse .inUse
      else if (fieldAt r.fields 0 1 ≠ s.grid.f0 ∨ fieldAt r.fields 1 1 ≠ s.grid.rate) ∧
        s.window.horizon.isSome then .refuse .inUse
      else if s.descriptors.any fun d => fieldAt r.fields 1 1 % d.divisor ≠ 0 then .refuse .inUse
      else .accept
        { s with grid :=
          { f0 := fieldAt r.fields 0 1, rate := fieldAt r.fields 1 1,
            futureLimit := min (fieldAt r.fields 2 1) 16 } }
        (gridBytes { f0 := fieldAt r.fields 0 1, rate := fieldAt r.fields 1 1,
                     futureLimit := min (fieldAt r.fields 2 1) 16 }) :=
  checks_pass (decide_eq_true length) (decide_eq_true idle) valid

theorem gridInUse_iff (f0 rate : Nat) : s.GridInUse f0 rate ↔
    (f0 ≠ s.grid.f0 ∧ s.anySource = true) ∨
    ((f0 ≠ s.grid.f0 ∨ rate ≠ s.grid.rate) ∧ s.window.horizon.isSome = true) ∨
    (s.descriptors.any fun d => rate % d.divisor ≠ 0) = true := by
  rw [descriptors_any]
  simp only [State.GridInUse, State.anySource, List.any_eq_true, decide_eq_true_eq,
    Option.isSome_iff_ne_none]

theorem configureGrid_inUse (length : r.fields.length = 3) (idle : s.reporting.opState = .idle)
    (valid : gridValid r.fields s.window.config = true)
    (inUse : s.GridInUse (fieldAt r.fields 0 1) (fieldAt r.fields 1 1)) :
    configureGrid r s = .refuse .inUse := by
  rw [configureGrid_eq length idle valid]
  split
  · rfl
  split
  · rfl
  split
  · rfl
  next sources horizon views =>
    exact absurd ((gridInUse_iff _ _).1 inUse) fun uses => uses.elim sources (·.elim horizon views)

theorem configureGrid_set (length : r.fields.length = 3) (idle : s.reporting.opState = .idle)
    (valid : gridValid r.fields s.window.config = true)
    (free : ¬s.GridInUse (fieldAt r.fields 0 1) (fieldAt r.fields 1 1)) :
    configureGrid r s = .accept
        { s with grid :=
          { f0 := fieldAt r.fields 0 1, rate := fieldAt r.fields 1 1,
            futureLimit := min (fieldAt r.fields 2 1) 16 } }
        (gridBytes { f0 := fieldAt r.fields 0 1, rate := fieldAt r.fields 1 1,
                     futureLimit := min (fieldAt r.fields 2 1) 16 }) := by
  rw [gridInUse_iff, not_or, not_or] at free
  obtain ⟨sources, horizon, views⟩ := free
  rw [configureGrid_eq length idle valid, if_neg sources, if_neg horizon, if_neg views]

/-- The fields of CONFIGURE_RELEASE that check 4 passes (R116). -/
def releaseValid (f : List Byte) (rate : Nat) : Bool :=
  decide (fieldAt f 0 1 ≤ 2) && decide (fieldAt f 1 1 ≤ 1) && decide (fieldAt f 2 1 ≤ 7) &&
    decide (fieldAt f 3 1 ≤ 7) && decide (fieldAt f 4 4 ≤ waitGrains (fieldAt f 3 1)) &&
    decide (fieldAt f 8 4 ≤ 6000000) && waitsAllowed (fieldAt f 2 1) (fieldAt f 3 1) rate

theorem releaseValid_iff {f : List Byte} {g : Grid} : releaseValid f g.rate = true ↔
    fieldAt f 0 1 ≤ 2 ∧ fieldAt f 1 1 ≤ 1 ∧ fieldAt f 2 1 ≤ 7 ∧ fieldAt f 3 1 ≤ 7 ∧
        fieldAt f 4 4 ≤ waitGrains (fieldAt f 3 1) ∧ fieldAt f 8 4 ≤ 6000000 ∧
        waitGrains (fieldAt f 2 1) ≤ 200 * g.period ∧
        waitGrains (fieldAt f 3 1) ≤ 200 * g.period := by
  simp only [releaseValid, Bool.and_eq_true, decide_eq_true_eq, waitsAllowed_iff, and_assoc]
  rfl

theorem releaseMode_of_code {n : Nat} (small : n ≤ 2) :
    releaseModeOf n = (if n = 0 then .early else if n = 1 then .deadline else .demand) ∧
      (releaseModeOf n).code = n := by
  interval_cases n <;> exact ⟨rfl, rfl⟩

theorem waitMode_code {n : Nat} (small : n ≤ 1) :
    (if n = 0 then WaitMode.fixed else .adaptive).code = n := by
  interval_cases n <;> rfl

end

/-- Settles O52: the checks of both requests in their order, then the values. -/
theorem gridAndReleaseConfigurationsAreCheckedAndSet :
    Obligations.GridAndReleaseConfigurationsAreCheckedAndSet := by
  rintro s r rest f rfl idle
  refine ⟨?_, ?_⟩
  · rintro executes length _ _ valid inUse rfl rfl valid_iff inUse_iff
    rw [valid_iff, ← gridValid_iff, inUse_iff]
    refine ⟨fun invalid => ?_, fun ok uses => ?_, fun ok free => ?_⟩
    · exact answer_refused executes (checks_badField (decide_eq_true length) (decide_eq_true idle)
        (Bool.eq_false_iff.2 invalid))
    · exact answer_refused executes (configureGrid_inUse (s := s.withProcessor .executing) length idle ok
        uses)
    · exact answer_accepted executes (configureGrid_set (s := s.withProcessor .executing) length idle ok
        free)
  · rintro executes length valid _ valid_iff rfl
    rw [valid_iff, ← releaseValid_iff]
    refine ⟨fun invalid => ?_, fun ok => ?_⟩
    · exact answer_refused executes (checks_badField (decide_eq_true length) (decide_eq_true idle)
        (Bool.eq_false_iff.2 invalid))
    · obtain ⟨mode, wait, _⟩ := releaseValid_iff.1 ok
      obtain ⟨modeOf, modeCode⟩ := releaseMode_of_code mode
      refine answer_accepted executes ?_
      refine (checks_pass (decide_eq_true length) (decide_eq_true idle) ok).trans ?_
      rw [releaseConfigBytes, ← modeOf, modeCode, waitMode_code wait]
      rfl

/-! ## CONFIGURE_TIME and SET_SECOND (R25, R26) -/

section
variable {s : State} {r : Request} {rest : List Request}

theorem carries_time (n : Nat) (t : TimeRef) :
    carries ([(2, some t.captureWindow), (2, some (t.holdoverLimit - 1)), (1, some t.quality.code),
        (4, some t.second), (4, some t.fraction)] ++
      (maybeField 4 t.pendingSecond ++ fieldsOf 4 [t.outlierRun, t.holdoverSeconds]))
      (timeBytes n t) := by
  simp only [timeBytes, List.append_assoc]
  refine carries_of_fields (carries_cons (carries_be2 _) <| carries_cons (carries_be2 _) <|
    carries_cons (carries_be1 _) <| carries_cons (carries_be4 _) <| carries_cons (carries_be4 _) <|
    carries_append (carries_maybeBytes ..) <| carries_cons (carries_be4 _) <| carries_be4 _) ?_
  simp [fieldsOf]

/-- What the missing-PPS check leaves as it was: local time, its settings and the outlier run. -/
def TimeRef.SameButQuality (t u : TimeRef) : Prop :=
  u.captureWindow = t.captureWindow ∧ u.holdoverLimit = t.holdoverLimit ∧ u.second = t.second ∧
    u.fraction = t.fraction ∧ u.pendingSecond = t.pendingSecond ∧ u.outlierRun = t.outlierRun

theorem missingPps_keeps (s : State) : s.time.SameButQuality (missingPps s).time := by
  have same : s.time.SameButQuality s.time := ⟨rfl, rfl, rfl, rfl, rfl, rfl⟩
  unfold missingPps
  split
  · exact same
  · exact same
  · rw [raiseTime, raiseNotice_time]; exact same
  · split
    · exact same
    · rw [enterFreeRun, raiseTime, raiseNotice_time]; exact same

theorem ppsCheck_keeps (s : State) : s.time.SameButQuality (ppsCheck s).time := by
  cases mark : s.time.boundaryMark with
  | true => rw [ppsCheck_of_mark mark]; exact ⟨rfl, rfl, rfl, rfl, rfl, rfl⟩
  | false => rw [ppsCheck_of_no_mark mark]; exact missingPps_keeps _

/-- The fields of CONFIGURE_TIME that check 4 passes (R26). -/
def timeValid (f : List Byte) : Bool :=
  decide (60 ≤ fieldAt f 0 2) && decide (fieldAt f 0 2 ≤ 6000) && decide (fieldAt f 2 2 + 1 ≤ 3600)

theorem exec_configureTime (executes : s.Executes 5 r rest) (length : r.fields.length = 4)
    (idle : s.reporting.opState = .idle) (valid : timeValid r.fields = true) (v : State)
    (set : v = setTimeValues (fieldAt r.fields 0 2) (fieldAt r.fields 2 2 + 1)
      (s.withProcessor .executing)) :
    exec .configureTime s = .next (finishRequest r .ok (timeBytes s.freeCount v.time) v) := by
  refine (answer_runRequest executes configureTime).trans ?_
  have passes := checks_pass (o := .accept v (timeBytes s.freeCount v.time)) (decide_eq_true length)
    (decide_eq_true idle) valid
  rw [set] at passes ⊢
  exact congrArg (fun e => Host.Outcome.next (conclude r s e)) passes

theorem setSecond_eq (length : r.fields.length = 4) : setSecond r s =
    if s.reporting.opState ≠ .idle ∧ fieldAt r.fields 0 4 ≠ s.time.expectedSecond then
      .refuse .timeConflict
    else .accept { s with time := { s.time with pendingSecond := some (fieldAt r.fields 0 4) } }
        (be4 (fieldAt r.fields 0 4) ++ expectedBytes s.freeCount s.time.expectedSecond ++
          optionByte s.time.pendingSecond.isSome ++ be1 s.time.quality.code) :=
  checks_pass (decide_eq_true length) rfl rfl

/-- A SET_SECOND that is taken answers with the second that it expects. -/
theorem exec_setSecond (executes : s.Executes 6 r rest) (length : r.fields.length = 4)
    (taken : s.reporting.opState = .idle ∨ fieldAt r.fields 0 4 = s.time.expectedSecond) :
    exec .setSecond s = .next (finishRequest r .ok
      (be4 (fieldAt r.fields 0 4) ++ expectedBytes s.freeCount s.time.expectedSecond ++
        optionByte s.time.pendingSecond.isSome ++ be1 s.time.quality.code)
      { s with time := { s.time with pendingSecond := some (fieldAt r.fields 0 4) } }) := by
  refine answer_accepted executes ((setSecond_eq length).trans (if_neg ?_))
  rintro ⟨other, conflict⟩
  exact taken.elim other conflict

end

/-- Settles O53: the check that the lowered window has passed, and the second that is taken. -/
theorem timeRequestsSetTheReference : Obligations.TimeRequestsSetTheReference := by
  rintro s r rest f rfl length
  refine ⟨?_, ?_⟩
  · rintro executes idle _ _ u rfl rfl made
    refine ⟨fun bad => ?_, fun low high limit v check => ?_⟩
    · refine answer_refused executes (checks_badField (decide_eq_true length) (decide_eq_true idle) ?_)
      simp only [Bool.and_eq_false_iff, decide_eq_false_iff_not]
      omega
    · have set : v = setTimeValues (fieldAt r.fields 0 2) (fieldAt r.fields 2 2 + 1)
          (s.withProcessor .executing) := by
        subst made
        obtain ⟨beyond, within, toCome, rfl⟩ | ⟨stays, rfl⟩ := check
        · exact (if_pos ⟨beyond, within, toCome⟩).symm
        · refine (if_neg ?_).symm
          rintro ⟨beyond, within, toCome⟩
          obtain below | above | taken := stays
          · exact Nat.not_le.2 beyond below
          · exact Nat.not_le.2 above within
          · rw [withProcessor_time, taken] at toCome; cases toCome
      have same : u.time.SameButQuality v.time := by
        obtain ⟨_, _, _, rfl⟩ | ⟨_, rfl⟩ := check
        · exact ppsCheck_keeps u
        · exact ⟨rfl, rfl, rfl, rfl, rfl, rfl⟩
      have valid : timeValid r.fields = true := by simp [timeValid, low, high, limit]
      refine ⟨_, exec_configureTime executes length idle valid v set, ?_⟩
      obtain ⟨window, holdover, second, fraction, pending, run⟩ := same
      refine carries_of_fields (carries_time s.freeCount v.time) ?_
      rw [window, holdover, second, fraction, pending, run, made]
      rfl
  · rintro executes _ e rfl rfl
    refine ⟨fun outside other => ?_, fun taken fits => ?_, fun idle beyond => ?_⟩
    · exact answer_refused executes ((setSecond_eq length).trans (if_pos ⟨outside, other⟩))
    · have expected : expectedBytes s.freeCount s.time.expectedSecond = be4 s.time.expectedSecond :=
        if_pos fits
      have pending : optionByte s.time.pendingSecond.isSome =
          [if s.time.pendingSecond = none then 0 else 1] := by
        cases s.time.pendingSecond <;> rfl
      refine (exec_setSecond executes length taken).trans ?_
      rw [expected, pending]
      rfl
    · refine ⟨_, ?_, exec_setSecond executes length (.inl idle)⟩
      have free : expectedBytes s.freeCount s.time.expectedSecond = absentBytes s.freeCount 0 4 :=
        if_neg (Nat.not_le.2 beyond)
      rw [free]
      simp [be4, be1, optionByte]

/-! ## CONFIGURE_INGEST (R50, R51) -/

section
variable {s : State} {r : Request} {rest : List Request}

theorem carries_linkCounters (c : LinkCounters) :
    carries (fieldsOf 4 [c.huntBytes, c.lengthError, c.crcError, c.kindError, c.filtered, c.enqueued,
      c.overflow, c.abandoned, c.flushed, c.granted, c.unknownFrames]) (linkCounterBytes c) := by
  simpa [linkCounterBytes] using carries_counts [c.huntBytes, c.lengthError, c.crcError, c.kindError,
    c.filtered, c.enqueued, c.overflow, c.abandoned, c.flushed, c.granted, c.unknownFrames]

theorem carries_link (k : IngestLink) :
    carries ([flagField k.on, (2, some k.filterMatch.toNat), (2, some k.filterMask.toNat),
        (1, some k.receiver.code)] ++
      fieldsOf 4 [k.fifo.length, k.passedOver, k.counters.huntBytes, k.counters.lengthError,
        k.counters.crcError, k.counters.kindError, k.counters.filtered, k.counters.enqueued,
        k.counters.overflow, k.counters.abandoned, k.counters.flushed, k.counters.granted,
        k.counters.unknownFrames]) (linkBytes k) := by
  simp only [linkBytes, List.append_assoc]
  exact carries_cons (carries_optionByte _) <| carries_cons (carries_be2 _) <|
    carries_cons (carries_be2 _) <| carries_cons (carries_be1 _) <| carries_cons (carries_be4 _) <|
    carries_cons (carries_be4 _) <| carries_linkCounters _

theorem carries_ingest (v : State) :
    carries ((LinkId.all.flatMap fun l =>
        [flagField (v.link l).on, (2, some (v.link l).filterMatch.toNat),
         (2, some (v.link l).filterMask.toNat), (1, some (v.link l).receiver.code)] ++
        fieldsOf 4 [(v.link l).fifo.length, (v.link l).passedOver,
          (v.link l).counters.huntBytes, (v.link l).counters.lengthError,
          (v.link l).counters.crcError, (v.link l).counters.kindError,
          (v.link l).counters.filtered, (v.link l).counters.enqueued,
          (v.link l).counters.overflow, (v.link l).counters.abandoned,
          (v.link l).counters.flushed, (v.link l).counters.granted,
          (v.link l).counters.unknownFrames]) ++
      [flagField (v.ingest.mode = .roundRobin), (1, some v.ingest.fairness),
       (1, some v.ingest.lastGranted.index), flagField v.ingest.dispatch.isSome]) (ingestBytes v) := by
  have mode : v.ingest.mode.code = if decide (v.ingest.mode = .roundRobin) then 1 else 0 := by
    cases v.ingest.mode <;> rfl
  simp only [ingestBytes, List.append_assoc]
  exact carries_append (carries_flatMap _ _ _ fun l _ => carries_link (v.link l)) <|
    carries_cons (carries_choice mode) <| carries_cons (carries_be1 _) <|
    carries_cons (carries_be1 _) <| carries_optionByte _

/-! The switch of a link (R33, R40). -/

theorem switch_same {on : Bool} {k : IngestLink} (same : k.on = on) : k.switch on = k := by
  cases on <;> simp only [IngestLink.switch, same]

theorem switch_on {k : IngestLink} (off : k.on = false) :
    k.switch true = { k with on := true, receiver := .hunt } := by
  simp only [IngestLink.switch, off]

theorem switch_off {k : IngestLink} (on : k.on = true) : k.switch false =
    { k with
      on := false
      receiver := .off
      fifo := []
      passedOver := 0
      counters := { countTurnOff k.receiver k.counters with
        flushed := bumpBy k.fifo.length (countTurnOff k.receiver k.counters).flushed } } := by
  simp only [IngestLink.switch, on]

/-- The fields of CONFIGURE_INGEST that check 4 passes (R50). -/
def ingestValid (f : List Byte) : Bool :=
  decide (fieldAt f 0 1 ≤ 1) && decide (fieldAt f 1 1 ≤ 1) &&
    (!decide (fieldAt f 0 1 = 1) || applyFieldsValid f)

theorem configureIngest_badField (length : r.fields.length = 24) (invalid : ingestValid r.fields = false) :
    configureIngest r s = .refuse .badField := checks_badField (decide_eq_true length) rfl invalid

theorem exec_configureIngest (executes : s.Executes 7 r rest) (length : r.fields.length = 24)
    (valid : ingestValid r.fields = true) (u : State)
    (applied : u = if fieldAt r.fields 0 1 = 1 then applyIngest r.fields s else s) :
    exec .configureIngest s = .next (finishRequest r .ok (ingestBytes u)
      (if fieldAt r.fields 1 1 = 1 then clearLinkCounters u else u)) := by
  refine answer_accepted executes ?_
  have inside : (if fieldAt r.fields 0 1 = 1 then applyIngest r.fields (s.withProcessor .executing)
      else s.withProcessor .executing) = u.withProcessor .executing := by
    rw [applied, ← withProcessor_ite]; rfl
  refine (checks_pass (decide_eq_true length) rfl valid).trans ?_
  rw [inside, ← withProcessor_ite]
  rfl

theorem applyFieldsValid_iff {f : List Byte} : applyFieldsValid f = true ↔
    (∀ l : LinkId, fieldAt f (2 + 5 * l.index) 1 ≤ 1) ∧ fieldAt f 22 1 ≤ 1 ∧ fieldAt f 23 1 ≤ 15 := by
  have every (p : LinkId → Prop) : (∀ l ∈ LinkId.all, p l) ↔ ∀ l, p l :=
    ⟨fun h l => h l (by cases l <;> decide), fun h l _ => h l⟩
  rw [applyFieldsValid, Bool.and_eq_true, Bool.and_eq_true, List.all_eq_true, every, and_assoc]
  simp only [decide_eq_true_eq]
  rfl

/-- An APPLY that changes nothing but the links and the arbiter's settings (R50). -/
theorem applyIngest_frame (f : List Byte) (s : State) : applyIngest f s =
    { s with
      links := (applyIngest f s).links
      ingest := { s.ingest with
        mode := if fieldAt f 22 1 = 0 then .priority else .roundRobin
        fairness := fieldAt f 23 1 } } := rfl

theorem applyIngest_link (f : List Byte) (s : State) (l : LinkId) : (applyIngest f s).link l =
    { (s.link l).switch (fieldAt f (2 + 5 * l.index) 1 = 1) with
      filterMatch := BitVec.ofNat 16 (fieldAt f (3 + 5 * l.index) 2)
      filterMask := BitVec.ofNat 16 (fieldAt f (5 + 5 * l.index) 2) } := by
  refine (applyLinks_link s f l).trans ?_
  cases l <;> rfl

theorem clearLinkCounters_link (u : State) (l : LinkId) :
    (clearLinkCounters u).link l = { u.link l with counters := {} } := by cases l <;> rfl

/-- What turning a link OFF counts, by the state of its receiver (R40). -/
theorem countTurnOff_cases {k : IngestLink} {c : LinkCounters}
    (counted : ((∃ x, k.receiver = .length x) ∨ ∃ n got, k.receiver = .frame n got) ∧
        c = { k.counters with abandoned := bump k.counters.abandoned } ∨
      k.receiver = .marker ∧ c = { k.counters with huntBytes := bump k.counters.huntBytes } ∨
      (k.receiver = .hunt ∨ k.receiver = .off) ∧ c = k.counters) :
    countTurnOff k.receiver k.counters = c := by
  obtain ⟨⟨x, state⟩ | ⟨n, got, state⟩, rfl⟩ | ⟨state, rfl⟩ | ⟨state | state, rfl⟩ := counted <;>
    rw [state] <;> rfl

end

/-- Settles O54: the checks, the settings link by link, the report, and the clear after it. -/
theorem ingestConfigurationIsAppliedAndReported : Obligations.IngestConfigurationIsAppliedAndReported := by
  rintro s r rest f executes rfl length report reports
  have carried (v : State) : carries (report v) (ingestBytes v) := reports v ▸ carries_ingest v
  refine ⟨⟨rfl, rfl, rfl, fun x => rfl, fun n got => rfl⟩, fun bad => ?_, fun read keep => ?_,
    fun read clear => ?_, fun apply option => ⟨fun bad => ?_, fun switches mode fairness => ?_⟩⟩
  · refine answer_refused executes (configureIngest_badField length ?_)
    simp only [ingestValid, Bool.and_eq_false_iff, decide_eq_false_iff_not]
    omega
  · refine ⟨ingestBytes s, ?_, carried s⟩
    rw [exec_configureIngest executes length (by simp [ingestValid, read, keep]) s
      (by rw [if_neg (by omega)]), if_neg (by omega)]
  · refine ⟨ingestBytes s, clearLinkCounters s, ?_, carried s, rfl, clearLinkCounters_link s⟩
    rw [exec_configureIngest executes length (by simp [ingestValid, read, clear]) s
      (by rw [if_neg (by omega)]), if_pos clear]
  · refine answer_refused executes (configureIngest_badField length ?_)
    have invalid : applyFieldsValid r.fields = false := by
      rw [← Bool.not_eq_true, applyFieldsValid_iff]
      rintro ⟨switches, mode, fairness⟩
      obtain ⟨l, large⟩ | large | large := bad
      · exact absurd (switches l) (by omega)
      · omega
      · omega
    simp [ingestValid, apply, invalid]
  · have valid : ingestValid r.fields = true := by
      simp [ingestValid, apply, option, applyFieldsValid_iff.2 ⟨switches, mode, fairness⟩]
    refine ⟨ingestBytes (applyIngest r.fields s), applyIngest r.fields s, _,
      exec_configureIngest executes length valid _ (if_pos apply).symm, carried _,
      fun keep => if_neg (by omega), fun clear => ?_, applyIngest_frame .., ?_⟩
    · rw [if_pos clear]
      exact ⟨rfl, clearLinkCounters_link _⟩
    · rintro l k rfl
      rw [applyIngest_link]
      refine ⟨fun same => ?_, fun on off => ?_, fun off on => ?_⟩
      · have stays : (s.link l).on = decide (fieldAt r.fields (2 + 5 * l.index) 1 = 1) := by
          rw [same]; cases (s.link l).on <;> rfl
        rw [switch_same stays]
      · rw [decide_eq_true on, switch_on off]
      · rw [decide_eq_false (by omega), switch_off on]
        refine ⟨rfl, rfl, rfl, rfl, rfl, rfl, fun c counted => ?_⟩
        rw [countTurnOff_cases (k := s.link l) (c := c) counted]
        rfl

end Sys2Proof.Machine

/-! PROOFS (the other statements). The requests on sources and views: AMEND_SOURCE, SUSPEND_SOURCE,
RESUME_SOURCE, RETIRE_SOURCE, STAGE_VIEW and CANCEL_VIEW (O56 to O58). -/

namespace Sys2Proof.Machine

section
variable {s : State} {r : Request} {rest : List Request}

/-! ## The entry a request names (R56, R60) -/

/-- A mapped identifier is that of a listed entry that is not UNUSED. -/
theorem mappedEntry_some {id : Word16} {t : Table Entry} {i : Nat} {e : Entry}
    (mapped : mappedEntry id t = some (i, e)) : (i, e) ∈ t ∧ e.state ≠ .unused ∧ e.id = id := by
  induction t with
  | nil => cases mapped
  | cons p t ih =>
    rw [mappedEntry] at mapped
    split at mapped
    next names =>
      obtain rfl : p = (i, e) := Option.some.inj mapped
      exact ⟨List.mem_cons_self .., names⟩
    next =>
      obtain ⟨mem, names⟩ := ih mapped
      exact ⟨List.mem_cons_of_mem _ mem, names⟩

theorem knownSource_iff {id : Word16} {i : Nat} : s.knownSource id = some i ↔
    ∃ e, mappedEntry id s.sources = some (i, e) ∧ e.state ≠ .retiring := by
  rw [State.knownSource]
  split
  next j e mapped =>
    rw [mapped]
    by_cases retiring : e.state = .retiring
    · rw [if_pos retiring]
      refine iff_of_false (by simp) ?_
      rintro ⟨e', same, stays⟩
      obtain ⟨rfl, rfl⟩ := Prod.mk.inj (Option.some.inj same)
      exact stays retiring
    · rw [if_neg retiring]
      constructor
      · intro same
        obtain rfl := Option.some.inj same
        exact ⟨e, rfl, retiring⟩
      · rintro ⟨e', same, _⟩
        obtain ⟨rfl, rfl⟩ := Prod.mk.inj (Option.some.inj same)
        rfl
  next mapped => rw [mapped]; simp

theorem onSource_known {f : List Byte} {i : Nat} {k : Nat → Execution}
    (known : s.knownSource (BitVec.ofNat 16 (fieldAt f 0 2)) = some i) : onSource f s k = k i := by
  rw [onSource, requestId, known]

theorem onSource_unknown {f : List Byte} {k : Nat → Execution}
    (unknown : s.knownSource (BitVec.ofNat 16 (fieldAt f 0 2)) = none) :
    onSource f s k = .refuse .notFound := by
  rw [onSource, requestId, unknown]

/-- A request that its owner accepts is answered OK, with the state its effect leaves and the processor
FREE. -/
theorem answer_effected {code : Nat} {f : Request → State → Execution} {t : State} {bytes : List Byte}
    (executes : s.Executes code r rest)
    (accepted : f r (s.withProcessor .executing) = .accept t bytes) :
    answer (runRequest code f s) = .next (finishRequest r .ok bytes t) := by
  rw [answer_runRequest executes, accepted, conclude]

@[simp] theorem entry_withProcessor (p : Processor) (s : State) (i : Nat) :
    (s.withProcessor p).entry i = s.entry i := rfl

/-! ## AMEND_SOURCE (R62, R63) -/

/-- What an amendment comes to, by the entry it makes. -/
theorem amend_eq {o : SourceOptions} {i : Nat} {e' : Entry} (made : (s.entry i).amended o = e')
    (used : e'.state ≠ .unused) : amend o i s =
      if (s.entry i).state = .active then
        if e'.state = .stalled then
          reevaluate (raiseSource i .stalled { s with sources := tableInsert i e' s.sources })
        else if o.required ≠ (s.entry i).options.required then
          reevaluate { s with sources := tableInsert i e' s.sources }
        else { s with sources := tableInsert i e' s.sources }
      else { s with sources := tableInsert i e' s.sources } := by
  rw [← setEntry_of_used s i e' used, ← made]
  rfl

theorem amended_same {o : SourceOptions} {e : Entry} (same : o.stallThreshold = e.options.stallThreshold) :
    e.amended o = { e with options := o } := if_pos same

theorem amended_changed {o : SourceOptions} {e : Entry}
    (changed : o.stallThreshold ≠ e.options.stallThreshold) :
    e.amended o = Entry.rethreshold o.stallThreshold { e with options := o } := if_neg changed

section
variable {t : Nat} {e : Entry}

theorem rethreshold_reached (active : e.state = .active) (reached : t ≤ e.missCount) :
    e.rethreshold t = { e with missCount := t, state := .stalled, counters :=
      { e.counters with stalls := bump e.counters.stalls } } := by
  rw [Entry.rethreshold, active]
  exact if_pos reached

theorem rethreshold_ahead (active : e.state = .active) (ahead : e.missCount < t) :
    e.rethreshold t = e := by
  rw [Entry.rethreshold, active]
  exact if_neg (Nat.not_le.2 ahead)

theorem rethreshold_stalled (stalled : e.state = .stalled) :
    e.rethreshold t = { e with missCount := t } := by
  rw [Entry.rethreshold, stalled]

theorem rethreshold_suspended (suspended : e.state = .suspended) :
    e.rethreshold t = { e with missCount := min e.missCount t } := by
  rw [Entry.rethreshold, suspended]
  dsimp only
  split
  next below => rw [min_eq_right below.le]
  next above => rw [min_eq_left (Nat.not_lt.1 above), ← suspended]

theorem rethreshold_declared (declared : e.state = .declared) : e.rethreshold t = e := by
  rw [Entry.rethreshold, declared]

end

section
variable {o : SourceOptions} {e : Entry}

theorem amended_ahead (active : e.state = .active)
    (ahead : o.stallThreshold = e.options.stallThreshold ∨ e.missCount < o.stallThreshold) :
    e.amended o = { e with options := o } := by
  by_cases same : o.stallThreshold = e.options.stallThreshold
  · exact amended_same same
  · rw [amended_changed same]
    exact rethreshold_ahead active (ahead.resolve_left same)

theorem amended_stalled (stalled : e.state = .stalled) : e.amended o =
    { e with options := o, missCount :=
      if o.stallThreshold = e.options.stallThreshold then e.missCount else o.stallThreshold } := by
  by_cases same : o.stallThreshold = e.options.stallThreshold
  · rw [amended_same same, if_pos same]
  · rw [amended_changed same, if_neg same]
    exact rethreshold_stalled stalled

theorem amended_suspended (suspended : e.state = .suspended) : e.amended o =
    { e with options := o, missCount :=
      if o.stallThreshold = e.options.stallThreshold then e.missCount
      else min e.missCount o.stallThreshold } := by
  by_cases same : o.stallThreshold = e.options.stallThreshold
  · rw [amended_same same, if_pos same]
  · rw [amended_changed same, if_neg same]
    exact rethreshold_suspended suspended

theorem amended_declared (declared : e.state = .declared) : e.amended o = { e with options := o } := by
  by_cases same : o.stallThreshold = e.options.stallThreshold
  · exact amended_same same
  · rw [amended_changed same]
    exact rethreshold_declared declared

end

/-- An amendment of an entry that is not ACTIVE writes the entry alone. -/
theorem amend_inactive {o : SourceOptions} {i : Nat} {e' : Entry} (made : (s.entry i).amended o = e')
    (used : e'.state ≠ .unused) (inactive : (s.entry i).state ≠ .active) :
    amend o i s = { s with sources := tableInsert i e' s.sources } :=
  (amend_eq made used).trans (if_neg inactive)

theorem exec_amendSource {i : Nat} {t : State} (executes : s.Executes 10 r rest)
    (length : r.fields.length = 13) (valid : optionsValid r.fields 2 = true)
    (known : s.knownSource (BitVec.ofNat 16 (fieldAt r.fields 0 2)) = some i)
    (amended : amend (optionsAt r.fields 2) i (s.withProcessor .executing) = t) :
    exec .amendSource s = .next (finishRequest r .ok
      (be1 (t.entry i).state.code ++ be4 (t.entry i).missCount) t) := by
  refine answer_effected executes ((checks_pass (decide_eq_true length) rfl valid).trans ?_)
  rw [onSource_known (s := s.withProcessor .executing) known, amended]

end

/-- Settles O56: the amended entry by its state and the threshold, and what follows it. -/
theorem amendmentWritesTheOptionsAndMovesTheMissCount :
    Obligations.AmendmentWritesTheOptionsAndMovesTheMissCount := by
  rintro s r rest f valid o executes rfl length valid_iff options
  have passes : valid ↔ optionsValid r.fields 2 = true := by rw [valid_iff, optionsValid_iff]
  obtain rfl : o = optionsAt r.fields 2 := options
  rw [passes]
  refine ⟨fun invalid => ?_, fun ok unknown => ?_, ?_⟩
  · exact answer_refused executes (checks_badField (decide_eq_true length) rfl
      (Bool.eq_false_iff.2 invalid))
  · exact answer_refused executes ((checks_pass (decide_eq_true length) rfl ok).trans
      (onSource_unknown (s := s.withProcessor .executing) unknown))
  · rintro i _ e' u ok known rfl rfl t effect
    refine exec_amendSource executes length ok known ?_
    obtain ⟨active, changed, reached, rfl, rfl⟩ | ⟨active, ahead, rfl, rfl⟩ | ⟨stalled, rfl, rfl⟩ |
      ⟨suspended, rfl, rfl⟩ | ⟨declared, rfl, rfl⟩ := effect
    · exact (amend_eq (s := s.withProcessor .executing)
        ((amended_changed changed).trans (rethreshold_reached active reached)) (by simp)).trans
        ((if_pos active).trans (if_pos rfl))
    · exact (amend_eq (s := s.withProcessor .executing) (amended_ahead active ahead)
        (by simp [active])).trans ((if_pos active).trans ((if_neg (by simp [active])).trans
          (ite_not ..)))
    · exact amend_inactive (s := s.withProcessor .executing) (amended_stalled stalled)
        (by simp [stalled]) (by simp [stalled])
    · exact amend_inactive (s := s.withProcessor .executing) (amended_suspended suspended)
        (by simp [suspended]) (by simp [suspended])
    · exact amend_inactive (s := s.withProcessor .executing) (amended_declared declared)
        (by simp [declared]) (by simp [declared])

/-! ## SUSPEND_SOURCE, RESUME_SOURCE, RETIRE_SOURCE (R64 to R66) -/

section
variable {s : State} {r : Request} {rest : List Request} {i : Nat}

theorem suspendSource_eq (length : r.fields.length = 2)
    (known : s.knownSource (BitVec.ofNat 16 (fieldAt r.fields 0 2)) = some i) : suspendSource r s =
      if (s.entry i).state = .suspended then .accept s (optionByte true)
      else .accept (suspend i s) (optionByte false) :=
  (checks_pass (decide_eq_true length) rfl rfl).trans (onSource_known known)

theorem suspend_eq : suspend i s = if (s.entry i).state = .active then
      reevaluate { s with sources := tableInsert i { s.entry i with state := .suspended } s.sources }
    else { s with sources := tableInsert i { s.entry i with state := .suspended } s.sources } := by
  rw [← setEntry_of_used s i { s.entry i with state := .suspended } (by simp)]
  rfl

theorem resumeSource_eq (length : r.fields.length = 2)
    (known : s.knownSource (BitVec.ofNat 16 (fieldAt r.fields 0 2)) = some i) : resumeSource r s =
      if (s.entry i).state = .suspended then
        .accept
          { s with sources :=
            tableInsert i { s.entry i with state := .declared, missCount := 0 } s.sources }
          (optionByte false)
      else .accept s (optionByte true) := by
  rw [← setEntry_of_used s i { s.entry i with state := .declared, missCount := 0 } (by simp)]
  exact (checks_pass (decide_eq_true length) rfl rfl).trans (onSource_known known)

theorem retireSource_eq (length : r.fields.length = 2)
    (known : s.knownSource (BitVec.ofNat 16 (fieldAt r.fields 0 2)) = some i) : retireSource r s =
      if s.namedByView i then .refuse .inUse
      else .accept (retire i s)
        (be1 (if s.sampleRemains (s.entry i) then EntryState.retiring else .unused).code) :=
  (checks_pass (decide_eq_true length) rfl rfl).trans (onSource_known known)

theorem namedByView_iff : s.namedByView i = true ↔ ∃ v d, ((s.view v).current = some d ∨
    ∃ st, (s.view v).staged = some st ∧ st.content = some d) ∧ ∃ x ∈ d.sources, x.source = i := by
  rw [State.namedByView, descriptors_any]
  simp only [List.any_eq_true, decide_eq_true_eq]

theorem sampleRemains_iff {e : Entry} : s.sampleRemains e = true ↔
    ∃ newest base, e.receipt.newest = some newest ∧ s.windowBase = some base ∧ base ≤ newest := by
  rw [State.sampleRemains]
  cases e.receipt.newest <;> cases s.windowBase <;> simp

/-- The entry after an accepted retirement: RETIRING while a sample of it remains, else UNUSED. -/
theorem retire_eq {remains : Prop} {u : State} (remains_iff : remains ↔ s.sampleRemains (s.entry i) = true)
    (made : remains ∧ u = { s with
        sources := tableInsert i { s.entry i with state := .retiring } s.sources } ∨
      ¬remains ∧ u = (s.setEntry i { Entry.unused with counters := (s.entry i).counters }).emptyHold i) :
    retire i s = if (s.entry i).state = .active then reevaluate u else u := by
  have effect : (if s.sampleRemains (s.entry i) then s.setEntry i { s.entry i with state := .retiring }
      else endEntry i s) = u := by
    obtain ⟨yes, rfl⟩ | ⟨no, rfl⟩ := made
    · rw [if_pos (remains_iff.1 yes), setEntry_of_used s i _ (by simp)]
    · rw [if_neg (mt remains_iff.2 no)]
      rfl
  rw [← effect]
  rfl

end

/-- Settles O57: the identifier map, and each request on the entry it resolves to. -/
theorem suspendResumeAndRetireMoveTheEntryState :
    Obligations.SuspendResumeAndRetireMoveTheEntryState := by
  refine ⟨fun s id => ⟨mappedEntry_none id s.sources, fun i e => mappedEntry_some,
    fun i => knownSource_iff⟩, fun s r rest length => ⟨fun unknown => ?_, ?_⟩⟩
  · have refused {k : Nat → Execution} : onSource r.fields (s.withProcessor .executing) k =
        .refuse .notFound := onSource_unknown (s := s.withProcessor .executing) unknown
    refine ⟨fun executes => ?_, fun executes => ?_, fun executes => ?_⟩
    · exact answer_refused executes ((checks_pass (decide_eq_true length) rfl rfl).trans refused)
    · exact answer_refused executes ((checks_pass (decide_eq_true length) rfl rfl).trans refused)
    · exact answer_refused executes ((checks_pass (decide_eq_true length) rfl rfl).trans refused)
  · rintro i _ known rfl
    refine ⟨?_, fun executes => ⟨fun suspended => ?_, fun other => ?_⟩, ?_⟩
    · rintro executes u rfl
      have eq := suspendSource_eq (s := s.withProcessor .executing) length known
      refine ⟨fun suspended => ?_, fun calm => ?_, fun active => ?_⟩
      · exact answer_accepted executes (eq.trans (if_pos suspended))
      · have inactive : (s.entry i).state ≠ .active := by
          obtain state | state := calm <;> simp [state]
        have awake : (s.entry i).state ≠ .suspended := by
          obtain state | state := calm <;> simp [state]
        refine answer_effected executes (eq.trans ((if_neg awake).trans ?_))
        rw [suspend_eq]
        exact congrArg (Execution.accept · _) (if_neg inactive)
      · have awake : (s.entry i).state ≠ .suspended := by simp [active]
        refine answer_effected executes (eq.trans ((if_neg awake).trans ?_))
        rw [suspend_eq]
        exact congrArg (Execution.accept · _) (if_pos active)
    · exact answer_accepted executes
        ((resumeSource_eq (s := s.withProcessor .executing) length known).trans (if_pos suspended))
    · exact answer_accepted executes
        ((resumeSource_eq (s := s.withProcessor .executing) length known).trans (if_neg other))
    · rintro executes named remains named_iff remains_iff
      rw [← namedByView_iff] at named_iff
      rw [← sampleRemains_iff] at remains_iff
      have eq := retireSource_eq (s := s.withProcessor .executing) length known
      refine ⟨fun inUse => ?_, fun free _ _ u made code retiring ended => ?_⟩
      · exact answer_refused executes (eq.trans (if_pos (named_iff.1 inUse)))
      · have coded : be1 (if s.sampleRemains (s.entry i) then EntryState.retiring else .unused).code =
            [code] := by
          by_cases yes : remains
          · rw [if_pos (remains_iff.1 yes), retiring yes]; rfl
          · rw [if_neg (mt remains_iff.2 yes), ended yes]; rfl
        have effect := retire_eq (s := s.withProcessor .executing) (i := i) remains_iff made
        have accepted : exec .retireSource s = .next (finishRequest r .ok [code]
            (if (s.entry i).state = .active then reevaluate u else u)) := by
          refine answer_effected executes (eq.trans ((if_neg (mt named_iff.2 free)).trans ?_))
          rw [effect]
          exact congrArg (Execution.accept _) coded
        rw [accepted]
        exact ⟨fun active => by rw [if_pos active], fun inactive => by rw [if_neg inactive]⟩

/-! ## STAGE_VIEW and CANCEL_VIEW (R135 to R139) -/

theorem destinationOf_eq (n : Nat) :
    destinationOf n = if n = 0 then .rl0 else if n = 1 then .rl1 else .cl := by
  match n with
  | 0 => rfl
  | 1 => rfl
  | n + 2 => simp [destinationOf]

theorem allDistinct_iff {l : List Nat} : allDistinct l = true ↔ l.Nodup := by
  induction l with
  | nil => simp [allDistinct]
  | cons n l ih => simp [allDistinct, ih]

theorem descriptorValid_iff {rate : Nat} {f : List Byte} : descriptorValid rate f = true ↔
    (descriptorOf f).tag ≠ 0 ∧ (descriptorOf f).divisor ≠ 0 ∧ (descriptorOf f).divisor ≤ rate ∧
      rate % (descriptorOf f).divisor = 0 ∧
      fieldAt f 8 1 ≤ 2 ∧ fieldAt f 9 1 ≤ 1 ∧ fieldAt f 10 1 ≤ 1 ∧ fieldAt f 11 1 ≤ 1 ∧
      fieldAt f 13 1 ≤ 1 ∧ fieldAt f 14 1 ≤ 1 ∧ (∀ e ∈ (descriptorOf f).sources, e.source ≤ 1023) ∧
      ((descriptorOf f).sources.map (·.source)).Nodup := by
  simp only [descriptorValid, Bool.and_eq_true, decide_eq_true_eq, List.all_eq_true, List.forall_mem_map,
    allDistinct_iff, and_assoc]

/-- The fields of STAGE_VIEW that check 4 passes (R135). -/
def stageValid (f : List Byte) (rate : Nat) : Bool :=
  decide (fieldAt f 0 1 ≤ 7) && decide (fieldAt f 1 1 ≤ 1) &&
    (decide (fieldAt f 1 1 = 1) || descriptorValid rate f)

theorem stageValid_iff {f : List Byte} {rate : Nat} : stageValid f rate = true ↔
    fieldAt f 0 1 ≤ 7 ∧ fieldAt f 1 1 ≤ 1 ∧ (fieldAt f 1 1 = 0 → descriptorValid rate f = true) := by
  rw [stageValid, Bool.and_eq_true, Bool.and_eq_true, Bool.or_eq_true, decide_eq_true_eq,
    decide_eq_true_eq, decide_eq_true_eq, and_assoc]
  refine and_congr_right fun _ => and_congr_right fun small => ?_
  exact ⟨fun either zero => either.resolve_left (by omega),
    fun described => (by omega : fieldAt f 1 1 = 1 ∨ fieldAt f 1 1 = 0).imp_right described⟩

section
variable {s : State} {r : Request} {rest : List Request} {v : ViewId}

theorem listedKnown_iff {d : Descriptor} : s.listedKnown d = true ↔
    ∀ e ∈ d.sources, (s.entry e.source).state ≠ .unused ∧ (s.entry e.source).state ≠ .retiring := by
  have visited (e : Entry) : e.visited = true ↔ e.state ≠ .unused ∧ e.state ≠ .retiring := by
    rw [Entry.visited]
    cases e.state <;> simp
  simp only [State.listedKnown, List.all_eq_true, visited]

/-- What STAGE_VIEW stages: a descriptor, or a retirement (R135). -/
def stagedContent (f : List Byte) : Option Descriptor :=
  if fieldAt f 1 1 = 1 then none else some (descriptorOf f)

/-- What it stages stands for: a view to retire, or entries in use (R135). -/
def State.KnownContent (s : State) (f : List Byte) (v : ViewId) : Prop :=
  (fieldAt f 1 1 = 1 ∧ (s.view v).current ≠ none) ∨ fieldAt f 1 1 ≠ 1 ∧ s.listedKnown (descriptorOf f) = true

/-- A view after a STAGE_VIEW: at once in IDLE, else at a boundary switch (R136, R137). -/
def State.stagedView (s : State) (f : List Byte) (v : ViewId) : State :=
  if s.reporting.opState = .idle then s.modifyView v fun w => w.takeEffect (stagedContent f)
  else s.modifyView v fun w => { w with staged := some ⟨fieldAt f 2 4, stagedContent f⟩ }

/-- What a STAGE_VIEW whose fields are in range comes to. -/
theorem stageView_eq (length : stageLength r.fields = true)
    (valid : stageValid r.fields s.grid.rate = true) (index : fieldAt r.fields 0 1 = v.index) :
    stageView r s =
      if fieldAt r.fields 1 1 = 1 ∧ (s.view v).current = none then .refuse .notFound
      else if !decide (fieldAt r.fields 1 1 = 1) && !s.listedKnown (descriptorOf r.fields) then
        .refuse .notFound
      else .accept (s.stagedView r.fields v)
        (be1 v.index ++ be1 (if s.reporting.opState = .idle then 0 else 1) ++
          optionByte (s.view v).staged.isSome ++ be2 ((s.stagedView r.fields v).view v).revision.toNat ++
          be4 (fieldAt r.fields 2 4) ++ be1 (descriptorOf r.fields).shift) :=
  (checks_pass length rfl valid).trans (onView_index index)

theorem stageView_notFound (length : stageLength r.fields = true)
    (valid : stageValid r.fields s.grid.rate = true) (index : fieldAt r.fields 0 1 = v.index)
    (unknown : ¬s.KnownContent r.fields v) : stageView r s = .refuse .notFound := by
  rw [stageView_eq length valid index]
  split
  · rfl
  next current =>
    refine if_pos ?_
    by_cases retiring : fieldAt r.fields 1 1 = 1
    · exact absurd (.inl ⟨retiring, fun none => current ⟨retiring, none⟩⟩) unknown
    · have unlisted : s.listedKnown (descriptorOf r.fields) = false :=
        Bool.eq_false_iff.2 fun listed => unknown (.inr ⟨retiring, listed⟩)
      simp [retiring, unlisted]

theorem stageView_taken (length : stageLength r.fields = true)
    (valid : stageValid r.fields s.grid.rate = true) (index : fieldAt r.fields 0 1 = v.index)
    (known : s.KnownContent r.fields v) : stageView r s = .accept (s.stagedView r.fields v)
        (be1 v.index ++ be1 (if s.reporting.opState = .idle then 0 else 1) ++
          optionByte (s.view v).staged.isSome ++ be2 ((s.stagedView r.fields v).view v).revision.toNat ++
          be4 (fieldAt r.fields 2 4) ++ be1 (descriptorOf r.fields).shift) := by
  rw [stageView_eq length valid index]
  obtain ⟨retiring, current⟩ | ⟨staging, listed⟩ := known
  · exact (if_neg fun none => current none.2).trans (if_neg (by simp [retiring]))
  · exact (if_neg fun none => staging none.1).trans (if_neg (by simp [listed]))

theorem stagedView_idle {f : List Byte} (idle : s.reporting.opState = .idle) : s.stagedView f v =
    s.modifyView v fun w => { w with
      current := stagedContent f, staged := none, revision := w.revision + 1 } := if_pos idle

theorem stagedView_running {f : List Byte} (running : s.reporting.opState ≠ .idle) : s.stagedView f v =
    s.modifyView v fun w => { w with staged := some ⟨fieldAt f 2 4, stagedContent f⟩ } :=
  if_neg running

theorem stagedView_withProcessor (p : Processor) (f : List Byte) :
    (s.withProcessor p).stagedView f v = (s.stagedView f v).withProcessor p := by
  unfold State.stagedView
  rw [← withProcessor_ite]
  rfl

theorem exec_stageView (executes : s.Executes 15 r rest) (length : stageLength r.fields = true)
    (valid : stageValid r.fields s.grid.rate = true) (index : fieldAt r.fields 0 1 = v.index)
    (known : s.KnownContent r.fields v) : exec .stageView s = .next (finishRequest r .ok
      (be1 v.index ++ be1 (if s.reporting.opState = .idle then 0 else 1) ++
        optionByte (s.view v).staged.isSome ++ be2 ((s.stagedView r.fields v).view v).revision.toNat ++
        be4 (fieldAt r.fields 2 4) ++ be1 (min (fieldAt r.fields 12 1) 8))
      (s.stagedView r.fields v)) := by
  refine answer_accepted executes ?_
  rw [← stagedView_withProcessor]
  refine (stageView_taken (s := s.withProcessor .executing) length valid index known).trans ?_
  rw [stagedView_withProcessor]
  rfl

theorem cancelView_eq (length : r.fields.length = 1) (index : fieldAt r.fields 0 1 = v.index) :
    cancelView r s = if (s.view v).staged.isSome then
        .accept (s.modifyView v fun w => { w with staged := none })
          (be1 (s.view v).stateCode ++ be2 (s.view v).revision.toNat)
      else .refuse .notFound := by
  have inRange : fieldAt r.fields 0 1 ≤ 7 := by rw [index]; cases v <;> decide
  exact (checks_pass (decide_eq_true length) rfl (decide_eq_true inRange)).trans (onView_index index)

end

/-- Settles O58: the descriptor's fields, and what becomes of it in IDLE and outside IDLE. -/
theorem viewRequestsStageAndCancel : Obligations.ViewRequestsStageAndCancel := by
  rintro s r rest f v rfl
  refine ⟨fun executes long length d valid descriptor valid_iff => ?_, fun executes length => ⟨fun beyond => ?_,
    fun index => ⟨fun unstaged => ?_, fun waits => ?_⟩⟩⟩
  · obtain rfl : d = descriptorOf r.fields := by
      rw [descriptor, descriptorOf, destinationOf_eq]; rfl
    have staged : stageLength r.fields = true := by
      rw [stageLength, Bool.and_eq_true, decide_eq_true_eq, decide_eq_true_eq]
      exact ⟨long, length⟩
    rw [← descriptorValid_iff, ← stageValid_iff] at valid_iff
    rw [valid_iff]
    refine ⟨fun invalid => ?_, fun ok index content known known_iff retired described =>
      ⟨fun unknown => ?_, fun isKnown replaced replaces => ?_⟩⟩
    · exact answer_refused executes (checks_badField staged rfl (Bool.eq_false_iff.2 invalid))
    all_goals
      obtain ⟨_, small, _⟩ := stageValid_iff.1 ok
      have passes : known ↔ s.KnownContent r.fields v := by
        have zero : fieldAt r.fields 1 1 ≠ 1 ↔ fieldAt r.fields 1 1 = 0 := by omega
        rw [known_iff, State.KnownContent, listedKnown_iff, zero]
    · exact answer_refused executes (stageView_notFound (s := s.withProcessor .executing) staged ok index
        (mt passes.2 unknown))
    · have contents : stagedContent r.fields = content := by
        unfold stagedContent
        split
        next one => exact (retired one).symm
        next other => exact (described (by omega)).symm
      have byte : optionByte (s.view v).staged.isSome = [replaced] := by
        rw [replaces]; cases (s.view v).staged <;> rfl
      have executed := exec_stageView executes staged ok index (passes.1 isKnown)
      rw [byte] at executed
      refine ⟨fun idle => ?_, fun running => ?_⟩
      · rw [if_pos idle, stagedView_idle idle, contents, State.view_modifyView_self] at executed
        exact executed
      · rw [if_neg running, stagedView_running running, contents, State.view_modifyView_self] at executed
        exact executed
  · exact answer_refused executes (checks_badField (decide_eq_true length) rfl
      (decide_eq_false (by omega)))
  · refine answer_refused executes ((cancelView_eq (s := s.withProcessor .executing) length index).trans
      (if_neg ?_))
    rw [show ((s.withProcessor .executing).view v).staged = none from unstaged]
    decide
  · refine answer_accepted executes ((cancelView_eq (s := s.withProcessor .executing) length index).trans
      ((if_pos (Option.isSome_iff_ne_none.2 waits)).trans ?_))
    have state : be1 (s.view v).stateCode = [if (s.view v).current = none then 0 else 1] := by
      rw [View.stateCode]; cases (s.view v).current <;> rfl
    rw [← state]
    rfl

end Sys2Proof.Machine

/-! PROOFS (the other statements). ALERT and the fault flags; the reset and clear requests and SET_NOTICES
(O60). -/

namespace Sys2Proof.Machine

/-! ## The fault flags (R177, R179) -/

theorem anyEnabled_iff {f e : FlagSet} :
    f.anyEnabled e = true ↔ ∃ g, f.get g = true ∧ e.get g = true := by
  constructor
  · intro set
    simp only [FlagSet.anyEnabled, Bool.or_eq_true, Bool.and_eq_true] at set
    obtain ((((((h | h) | h) | h) | h) | h) | h) | h := set
    exacts [⟨.storeExhausted, h⟩, ⟨.pressure, h⟩, ⟨.overrun, h⟩, ⟨.releaseDrop, h⟩,
      ⟨.ingestOverflow, h⟩, ⟨.noticeLoss, h⟩, ⟨.commandOverflow, h⟩, ⟨.timeFreeRun, h⟩]
  · rintro ⟨g, set, enabled⟩
    cases g <;> simp only [FlagSet.get] at set enabled <;> simp [FlagSet.anyEnabled, set, enabled]

theorem alert_iff {s : State} : s.alert = true ↔ s.reporting.startMark = false ∨
    ∃ g, s.flag g = true ∧ s.reporting.alertEnables.get g = true := by
  rw [State.alert, Bool.or_eq_true, Bool.not_eq_true', anyEnabled_iff]
  rfl

/-- A flag that is cleared by its mark is left set where the mark is off. -/
theorem clearMarked_get (f marks : FlagSet) (g : FaultFlag) :
    (f.clearMarked marks).get g = (f.get g && !marks.get g) := by cases g <;> rfl

theorem flagSetAt_get (f : List Byte) (o : Nat) (g : FaultFlag) :
    (flagSetAt f o).get g = decide (fieldAt f (o + g.index) 1 = 1) := by cases g <;> rfl

theorem flagSetValid_iff {f : List Byte} {o : Nat} :
    flagSetValid f o = true ↔ ∀ k, k < 8 → fieldAt f (o + k) 1 ≤ 1 := by
  simp only [flagSetValid, List.all_eq_true, List.mem_range, decide_eq_true_eq]

/-! ## Every entry changed -/

section
variable {s : State} {p : Processor}

/-- A change of every listed entry, one that leaves an entry as after device reset as it is, is a change of
every entry. -/
theorem foldl_everyEntry {f : Entry → Entry} {g : State → Nat → State}
    (change : ∀ s i, g s i = s.modifyEntry i f) (once : ∀ e, f (f e) = f e) (fixed : f .unused = .unused)
    (s : State) : (∀ i, (s.sourceIndices.foldl g s).entry i = f (s.entry i)) ∧
      s.sourceIndices.foldl g s = { s with sources := (s.sourceIndices.foldl g s).sources } := by
  obtain ⟨entries, frame⟩ := foldl_modifyEntry f g change once s.sourceIndices s
  refine ⟨fun i => ?_, frame⟩
  rw [entries]
  split
  next => rfl
  next unlisted => rw [entry_of_not_listed s i unlisted, fixed]

theorem foldl_withProcessor {g : State → Nat → State}
    (same : ∀ s i, g (s.withProcessor p) i = (g s i).withProcessor p) (l : List Nat) (s : State) :
    l.foldl g (s.withProcessor p) = (l.foldl g s).withProcessor p := by
  induction l generalizing s with
  | nil => rfl
  | cons i l ih => rw [List.foldl_cons, same, ih, List.foldl_cons]

/-! ## RESET_WINDOW (R74, R119, R120, R154) -/

theorem Entry.windowReset_once (e : Entry) : e.windowReset.windowReset = e.windowReset := by
  obtain ⟨state, id, links, shape, options, latency, receipt, missCount, heldCount, counters⟩ := e
  cases state <;> rfl

theorem windowReset_entry (s : State) (i : Nat) : (windowReset s).entry i = (s.entry i).windowReset := by
  obtain ⟨entries, _⟩ := foldl_everyEntry (g := resetEntry) (fun _ _ => rfl)
    Entry.windowReset_once rfl s
  exact entries i

theorem windowReset_eq (s : State) : windowReset s = { s with
    sources := (windowReset s).sources
    window := { s.window with
      slots := [], horizon := none, freeRecords := 65536, assemblyQueue := [] }
    assembler := { current := none, dispositions := [], nextView := none, holdBank := [] }
    release := { s.release with
      queue0 := s.release.queue0.flush
      queue1 := s.release.queue1.flush
      commandQueue := s.release.commandQueue.flush } } := by
  obtain ⟨_, frame⟩ := foldl_everyEntry (g := resetEntry) (fun _ _ => rfl)
    Entry.windowReset_once rfl s
  unfold windowReset
  dsimp only
  generalize s.sourceIndices.foldl resetEntry s = t at frame ⊢
  rw [frame]
  rfl

theorem windowReset_queue (s : State) (d : Destination) :
    (windowReset s).release.queue d = (s.release.queue d).flush := by
  rw [windowReset_eq]
  cases d <;> rfl

theorem windowReset_withProcessor (p : Processor) (s : State) :
    windowReset (s.withProcessor p) = (windowReset s).withProcessor p := by
  have same := foldl_withProcessor (p := p) (g := resetEntry) (fun _ _ => rfl) s.sourceIndices s
  unfold windowReset
  rw [show (s.withProcessor p).sourceIndices = s.sourceIndices from rfl, same]
  rfl

theorem windowReset_cases (e : Entry) :
    (e.state = .unused → e.windowReset = e) ∧
    (e.state = .retiring → e.windowReset = { Entry.unused with counters := e.counters }) ∧
    (e.state = .declared ∨ e.state = .suspended → e.windowReset =
      { e with receipt := .clear, missCount := 0, heldCount := 0 }) ∧
    (e.state = .active ∨ e.state = .stalled → e.windowReset =
      { e with state := .declared, receipt := .clear, missCount := 0, heldCount := 0 }) := by
  obtain ⟨state, id, links, shape, options, latency, receipt, missCount, heldCount, counters⟩ := e
  cases state <;> simp [Entry.windowReset, Entry.ended]

/-! ## CLEAR_COUNTERS (R182) -/

theorem zeroCounters_entry (s : State) (i : Nat) :
    (zeroCounters s).entry i = { s.entry i with counters := {} } := by
  obtain ⟨entries, _⟩ := foldl_everyEntry (f := fun e => { e with counters := {} }) (g := clearEntry)
    (fun _ _ => rfl) (fun _ => rfl) rfl s
  exact entries i

theorem zeroCounters_eq (s : State) : zeroCounters s = { s with
    sources := (zeroCounters s).sources
    links := s.links.map fun k => { k with counters := {} }
    window := { s.window with counters := {} }
    views := s.views.map View.cleared
    release := { s.release with
      queue0 := s.release.queue0.cleared
      queue1 := s.release.queue1.cleared
      commandQueue := s.release.commandQueue.cleared }
    command := { s.command with counters := {} }
    reporting := { s.reporting with lostNotices := 0 } } := by
  obtain ⟨_, frame⟩ := foldl_everyEntry (f := fun e => { e with counters := {} }) (g := clearEntry)
    (fun _ _ => rfl) (fun _ => rfl) rfl s
  unfold zeroCounters
  generalize s.sourceIndices.foldl clearEntry s = t at frame ⊢
  rw [frame]
  rfl

theorem zeroCounters_withProcessor (p : Processor) (s : State) :
    zeroCounters (s.withProcessor p) = (zeroCounters s).withProcessor p := by
  have same := foldl_withProcessor (p := p) (g := clearEntry) (fun _ _ => rfl) s.sourceIndices s
  unfold zeroCounters
  rw [show (s.withProcessor p).sourceIndices = s.sourceIndices from rfl, same]
  rfl

end

/-! ## SET_NOTICES (R176) -/

section
variable {f : List Byte}

/-- An option that is off or on is written as it was read. -/
theorem optionByte_read {n : Nat} (small : n ≤ 1) : optionByte (decide (n = 1)) = be1 n := by
  interval_cases n <;> rfl

theorem classBytes_read {o : Nat} (small : fieldAt f o 1 ≤ 1) :
    classBytes (classSettingAt f o) = be1 (fieldAt f o 1) ++ be1 (fieldAt f (o + 1) 1) := by
  rw [classBytes, classSettingAt, optionByte_read small]

theorem flagBytes_read {o : Nat} (small : ∀ k, k < 8 → fieldAt f (o + k) 1 ≤ 1) :
    flagBytes (flagSetAt f o) = (List.range 8).flatMap fun k => be1 (fieldAt f (o + k) 1) := by
  have marks : (flagSetAt f o).toList =
      (List.range 8).map fun k => decide (fieldAt f (o + k) 1 = 1) := rfl
  rw [flagBytes, marks, List.flatMap_map]
  exact List.flatMap_congr fun k mem => optionByte_read (small k (List.mem_range.1 mem))

/-- The bytes of a body, one field each. -/
theorem bytes_fields (f : List Byte) :
    ((List.range f.length).flatMap fun k => be1 (fieldAt f k 1)) = f := by
  have one : ∀ k, be1 (fieldAt f k 1) = [BitVec.ofNat 8 (fieldAt f k 1)] := fun _ => rfl
  simp only [one, ← List.map_eq_flatMap]
  refine List.ext_getElem (by simp) fun k _ inside => ?_
  have bytes : bytesAt f k 1 = [f[k]] := by
    rw [bytesAt, List.drop_eq_getElem_cons inside]; rfl
  simp [fieldAt, bytes, beNat]

/-- The fields of SET_NOTICES that check 4 passes (R176). -/
theorem noticesValid_iff : (classesValid f && flagSetValid f 12) = true ↔
    (∀ k, k < 6 → fieldAt f (2 * k) 1 ≤ 1 ∧ fieldAt f (2 * k + 1) 1 ≤ 3) ∧
      ∀ k, k < 8 → fieldAt f (12 + k) 1 ≤ 1 := by
  rw [Bool.and_eq_true, flagSetValid_iff]
  simp only [classesValid, List.all_eq_true, List.mem_range, Bool.and_eq_true, decide_eq_true_eq]

/-- The settings of a SET_NOTICES are reported as its own bytes. -/
theorem settingBytes_read {r : Reporting} (length : f.length = 20)
    (valid : (classesValid f && flagSetValid f 12) = true) :
    settingBytes { r with classes := classesAt f, alertEnables := flagSetAt f 12 } = f := by
  obtain ⟨classes, enables⟩ := noticesValid_iff.1 valid
  have masked (k : Nat) (inside : k < 6) : classBytes (classSettingAt f (2 * k)) =
      be1 (fieldAt f (2 * k) 1) ++ be1 (fieldAt f (2 * k + 1) 1) := classBytes_read (classes k inside).1
  calc settingBytes { r with classes := classesAt f, alertEnables := flagSetAt f 12 }
      = classBytes (classSettingAt f (2 * 0)) ++ classBytes (classSettingAt f (2 * 1)) ++
          classBytes (classSettingAt f (2 * 2)) ++ classBytes (classSettingAt f (2 * 3)) ++
          classBytes (classSettingAt f (2 * 4)) ++ classBytes (classSettingAt f (2 * 5)) ++
          flagBytes (flagSetAt f 12) := rfl
    _ = (List.range 20).flatMap fun k => be1 (fieldAt f k 1) := by
      rw [masked 0 (by decide), masked 1 (by decide), masked 2 (by decide), masked 3 (by decide),
        masked 4 (by decide), masked 5 (by decide), flagBytes_read enables]
      rfl
    _ = f := by rw [← length]; exact bytes_fields f

theorem classesAt_get (f : List Byte) (c : NoticeClass) : (classesAt f).get c =
    { masked := fieldAt f (2 * c.code) 1 = 1, priority := fieldAt f (2 * c.code + 1) 1 } := by
  cases c <;> rfl

end

/-- Settles O60: the flags, the resets, the clears and the settings, each on what it names. -/
theorem resetsAndClearsActOnWhatTheyName : Obligations.ResetsAndClearsActOnWhatTheyName := by
  refine ⟨fun s => ⟨alert_iff, rfl, fun g => ⟨rfl, fun h => flag_setFlag g h s⟩⟩, fun f => rfl, ?_⟩
  rintro s r rest f rfl
  refine ⟨fun executes empty idle => ?_, fun executes empty => ?_, fun executes empty => ?_,
    fun executes length => ⟨fun bad => ?_, fun ok => ?_⟩, fun executes length valid valid_iff => ?_⟩
  · refine ⟨windowReset s, ?_, ?_, ?_, ?_⟩
    · refine answer_accepted executes ((checks_pass (by simp [empty]) (decide_eq_true idle) rfl).trans ?_)
      rw [windowReset_withProcessor]
    · have queue0 : (windowReset s).release.queue0 = s.release.queue0.flush := windowReset_queue s .rl0
      have queue1 : (windowReset s).release.queue1 = s.release.queue1.flush := windowReset_queue s .rl1
      have commandQueue : (windowReset s).release.commandQueue = s.release.commandQueue.flush :=
        windowReset_queue s .cl
      rw [queue0, queue1, commandQueue]
      exact windowReset_eq s
    · rintro p _ rfl
      rw [windowReset_queue]
      exact ⟨fun free => ReleaseQueue.flush_of_free free,
        fun o others sends sets => ReleaseQueue.flush_of_sending sends sets⟩
    · rintro i _ rfl
      rw [windowReset_entry]
      exact windowReset_cases _
  · refine (answer_runRequest executes resetDevice).trans ?_
    rw [resetDevice, checks_pass (by simp [empty]) rfl rfl]
    rfl
  · refine ⟨zeroCounters s, ?_, ?_⟩
    · refine answer_accepted executes ((checks_pass (by simp [empty]) rfl rfl).trans ?_)
      rw [zeroCounters_withProcessor]
    · have entries := zeroCounters_entry s
      have frame := zeroCounters_eq s
      generalize zeroCounters s = t at entries frame ⊢
      generalize t.sources = sources at frame
      subst frame
      exact ⟨fun l => by cases l <;> rfl, entries, rfl, fun v => by cases v <;> rfl,
        fun d => by cases d <;> rfl, rfl, rfl, rfl, rfl, rfl, rfl, rfl, rfl, rfl⟩
  · refine answer_refused executes (checks_badField (decide_eq_true length) rfl
      (Bool.eq_false_iff.2 fun valid => ?_))
    obtain ⟨k, inside, large⟩ := bad
    have small := flagSetValid_iff.1 valid k inside
    rw [Nat.zero_add] at small
    omega
  · refine ⟨s.reporting.faults.clearMarked (flagSetAt r.fields 0), answer_accepted executes
      (checks_pass (decide_eq_true length) rfl (flagSetValid_iff.2 fun k inside => ?_)), fun g => ?_⟩
    · rw [Nat.zero_add]; exact ok k inside
    · have small : fieldAt r.fields g.index 1 ≤ 1 := ok g.index (by cases g <;> decide)
      have mark : (!decide (fieldAt r.fields g.index 1 = 1)) = decide (fieldAt r.fields g.index 1 = 0) := by
        rw [← decide_not]; exact decide_eq_decide.2 (by omega)
      rw [clearMarked_get, flagSetAt_get, Nat.zero_add, mark]
      rfl
  · rw [valid_iff, ← noticesValid_iff]
    refine ⟨fun invalid => ?_, fun ok => ⟨classesAt r.fields, flagSetAt r.fields 12, ?_,
      classesAt_get r.fields, flagSetAt_get r.fields 12⟩⟩
    · exact answer_refused executes (checks_badField (decide_eq_true length) rfl
        (Bool.eq_false_iff.2 invalid))
    · refine answer_accepted executes ((checks_pass (decide_eq_true length) rfl ok).trans ?_)
      rw [settingBytes_read length ok]
      rfl

end Sys2Proof.Machine

/-! PROOFS (the other statements). START, STOP with its drain, and RELEASE_THROUGH (O59). -/

namespace Sys2Proof.Machine

section
variable {s : State} {k : Nat} {slot : Slot}

/-! ## What follows closes, where the walk closes nothing -/

/-- The completion walk has nothing to do: the mode is not EARLY, or the part is not RUNNING (R107). -/
def State.WalkIdle (s : State) : Prop :=
  s.window.config.mode ≠ .early ∨ s.reporting.opState ≠ .running

theorem completionWalk_of_walkIdle (idle : s.WalkIdle) : completionWalk s = s :=
  completionWalk_idle (idle.imp_right .inl)

theorem takeIfIdle_requestKept (s : State) : RequestKept s (takeIfIdle s).1 := by
  unfold takeIfIdle
  split
  · exact takeHead_requestKept _ _ _
  · exact .refl _

theorem takeIfIdle_queue (s : State) : (takeIfIdle s).1.window.assemblyQueue =
    if s.assembler.current = none then s.window.assemblyQueue.drop 1 else s.window.assemblyQueue := by
  unfold takeIfIdle
  split
  next n rest current queue => rw [takeHead_window, if_pos current, queue]; rfl
  next other =>
    split
    next current =>
      cases queue : s.window.assemblyQueue with
      | nil => rfl
      | cons n rest => exact absurd queue (other n rest current)
    next => rfl

theorem takeIfIdle_horizon (s : State) : (takeIfIdle s).1.window.horizon = s.window.horizon := by
  unfold takeIfIdle
  split
  · rw [takeHead_window]
  · rfl

theorem takeIfIdle_config (s : State) : (takeIfIdle s).1.window.config = s.window.config := by
  unfold takeIfIdle
  split
  · rw [takeHead_window]
  · rfl

/-- The take leaves every slot as it is but the head of the Assembly Queue. -/
theorem takeIfIdle_other (other : s.assembler.current = none → s.window.assemblyQueue.head? ≠ some k) :
    (takeIfIdle s).1.slot? k = s.slot? k := by
  unfold takeIfIdle
  split
  next n rest current queue =>
    have apart : k ≠ n := fun same => other current (by rw [queue, same]; rfl)
    rw [State.slot?, takeHead_window, tableFind_modify, if_neg apart]
    rfl
  next => rfl

/-- Where the walk is idle, what follows closes is the take, with an evaluation after it or none. -/
theorem settle_of_walkIdle (executing : s.command.processor = .executing) (idle : s.WalkIdle) :
    settle s = (takeIfIdle s).1 ∨ settle s = (evaluateAll (takeIfIdle s).1).1 := by
  obtain ⟨-, -, opState⟩ := takeIfIdle_requestKept s executing
  have later : (evaluateAll (takeIfIdle s).1).1.WalkIdle := by
    unfold State.WalkIdle
    rw [evaluateAll_reporting, opState]
    exact idle.imp_left fun mode early => mode ((congrArg _ (takeIfIdle_config s)).symm.trans early)
  rw [settle, completionWalk_of_walkIdle idle]
  unfold takeAndReevaluate reevaluateAfterTake
  dsimp only
  split
  · rw [completionWalk_of_walkIdle later, ite_self]
    exact .inr rfl
  · exact .inl rfl

section
variable (executing : s.command.processor = .executing) (idle : s.WalkIdle)
include executing idle

theorem settle_queue : (settle s).window.assemblyQueue =
    if s.assembler.current = none then s.window.assemblyQueue.drop 1 else s.window.assemblyQueue := by
  rw [← takeIfIdle_queue]
  obtain eq | eq := settle_of_walkIdle executing idle <;> rw [eq]
  rfl

theorem settle_horizon : (settle s).window.horizon = s.window.horizon := by
  refine .trans ?_ (takeIfIdle_horizon s)
  obtain eq | eq := settle_of_walkIdle executing idle <;> rw [eq]
  rfl

/-- A slot that is not taken is as unclosed as before: an evaluation makes an OPEN one READY at most. -/
theorem settle_unclosed (found : s.slot? k = some slot)
    (other : s.assembler.current = none → s.window.assemblyQueue.head? ≠ some k) :
    ∃ slot', (settle s).slot? k = some slot' ∧ slot'.unclosed = slot.unclosed := by
  have taken := (takeIfIdle_other other).trans found
  obtain eq | eq := settle_of_walkIdle executing idle
  · exact ⟨slot, by rw [eq, taken], rfl⟩
  · have after : (settle s).slot? k = some
        (evaluated (takeIfIdle s).1.grid.rate k (takeIfIdle s).1.sources slot) := by
      rw [eq]
      exact (tableFind_map (fun n v => evaluated (takeIfIdle s).1.grid.rate n
        (takeIfIdle s).1.sources v) k _).trans (congrArg (Option.map _) taken)
    refine ⟨_, after, ?_⟩
    obtain same | ⟨opened, ready⟩ :=
      evaluated_cases (takeIfIdle s).1.grid.rate k (takeIfIdle s).1.sources slot
    · rw [same]
    · rw [ready]
      simp [Slot.unclosed, opened]

end

/-! ## A rising list of closes for one reason -/

/-- Each close appends its instant to the Assembly Queue. -/
theorem closes_queue (r : CloseReason) {l : List Nat} (rising : l.Pairwise (· < ·))
    (unclosed : ∀ n ∈ l, ∃ v, s.slot? n = some v ∧ v.unclosed = true) :
    (closeAll (l.map (·, r)) s).window.assemblyQueue = s.window.assemblyQueue ++ l := by
  induction l generalizing s with
  | nil => exact (List.append_nil _).symm
  | cons n l ih =>
    obtain ⟨above, rising⟩ := List.pairwise_cons.1 rising
    obtain ⟨v, found, isUnclosed⟩ := unclosed n (.head _)
    have close := closeSlot_of_unclosed r found isUnclosed
    have remain : ∀ m ∈ l, ∃ w, (closeSlot n r s).slot? m = some w ∧ w.unclosed = true := by
      intro m mem
      rw [close, State.slot?, tableFind_insert_ne (above m mem).ne']
      exact unclosed m (.tail _ mem)
    refine (ih rising remain).trans ?_
    rw [close]
    exact List.append_assoc ..

theorem keys_of_reason (r : CloseReason) (l : List Nat) : (l.map (·, r)).map (·.1) = l := by
  rw [List.map_map]
  exact List.map_id l

/-- The last instant closed is the horizon; without a close it stays. -/
theorem closes_horizon (r : CloseReason) {l : List Nat} (rising : l.Pairwise (· < ·))
    (unclosed : ∀ n ∈ l, ∃ v, s.slot? n = some v ∧ v.unclosed = true) :
    (closeAll (l.map (·, r)) s).window.horizon =
      if l = [] then s.window.horizon else l.getLast? := by
  split
  next empty => rw [empty]; rfl
  next nonempty =>
    obtain ⟨-, -, horizon, -⟩ := closeAll_closes (l.map (·, r)) s (by rwa [keys_of_reason])
      (List.forall_mem_map.2 unclosed)
    rw [horizon (by simpa using nonempty), ← List.getLast?_map, keys_of_reason]

/-- Each slot named is closed for the reason, and every other one is as it was. -/
theorem closes_slots (r : CloseReason) {l : List Nat} (rising : l.Pairwise (· < ·))
    (unclosed : ∀ n ∈ l, ∃ v, s.slot? n = some v ∧ v.unclosed = true) (found : s.slot? k = some slot) :
    (k ∈ l → (closeAll (l.map (·, r)) s).slot? k =
      some { slot with state := .closed, closeReason := some r }) ∧
    (k ∉ l → (closeAll (l.map (·, r)) s).slot? k = some slot) := by
  obtain ⟨closed, others, -⟩ := closeAll_closes (l.map (·, r)) s (by rwa [keys_of_reason])
    (List.forall_mem_map.2 unclosed)
  rw [keys_of_reason] at others
  exact ⟨fun mem => closed k r slot (List.mem_map_of_mem mem) found, fun out => (others k out).trans found⟩

theorem closeAll_config (l : List (Nat × CloseReason)) (s : State) :
    (closeAll l s).window.config = s.window.config := by
  induction l generalizing s with
  | nil => rfl
  | cons p l ih =>
    refine (ih _).trans ?_
    unfold closeSlot
    (repeat' split) <;> rfl

/-- The walk stays idle over closes. -/
theorem closeAll_walkIdle (l : List (Nat × CloseReason)) (idle : s.WalkIdle) : (closeAll l s).WalkIdle := by
  unfold State.WalkIdle
  rw [closeAll_config, closeAll_reporting]
  exact idle

section
variable {l : List Nat} (r : CloseReason) (executing : s.command.processor = .executing) (idle : s.WalkIdle)
  (rising : l.Pairwise (· < ·)) (unclosed : ∀ n ∈ l, ∃ v, s.slot? n = some v ∧ v.unclosed = true)
include executing idle rising unclosed

theorem settle_closes_queue : (settle (closeAll (l.map (·, r)) s)).window.assemblyQueue =
    if s.assembler.current = none then (s.window.assemblyQueue ++ l).drop 1
    else s.window.assemblyQueue ++ l := by
  rw [settle_queue (by rwa [closeAll_command]) (closeAll_walkIdle _ idle), closeAll_assembler,
    closes_queue r rising unclosed]

theorem settle_closes_horizon : (settle (closeAll (l.map (·, r)) s)).window.horizon =
    if l = [] then s.window.horizon else l.getLast? := by
  rw [settle_horizon (by rwa [closeAll_command]) (closeAll_walkIdle _ idle),
    closes_horizon r rising unclosed]

end

/-- Closes at the tail of a queue of CLOSED slots put no other unclosed slot at its head. -/
theorem head_ne_unclosed {l : List Nat}
    (queue : ∀ n ∈ s.window.assemblyQueue, ∃ v, s.slot? n = some v ∧ v.state = .closed) (found : s.slot? k = some slot)
    (unclosed : slot.unclosed = true) (out : k ∉ l) :
    (s.window.assemblyQueue ++ l).head? ≠ some k := by
  intro head
  obtain queued | listed := List.mem_append.1 (List.mem_of_mem_head? head)
  · obtain ⟨v, found', closed⟩ := queue k queued
    obtain rfl : slot = v := Option.some.inj (found.symm.trans found')
    simp [Slot.unclosed, closed] at unclosed
  · exact out listed

/-- In DEMAND mode, closes of the unclosed slots up to a bound and what follows them: these are closed, and
every other slot keeps its close; a slot above the bound stays unclosed, where it does not stand in the
Assembly Queue already. -/
theorem demandCloses_slot {b : Nat} {l : List Nat} (executing : s.command.processor = .executing)
    (mode : s.window.config.mode = .demand) (rising : l.Pairwise (· < ·))
    (members : ∀ k, k ∈ l ↔ k ≤ b ∧ ∃ slot, s.slot? k = some slot ∧ slot.unclosed = true)
    (found : s.slot? k = some slot) :
    ∃ slot', (settle (closeAll (l.map (·, .demand)) s)).slot? k = some slot' ∧
      slot'.contributors = slot.contributors ∧
      (slot.unclosed = true → k ≤ b → slot'.unclosed = false ∧ slot'.closeReason = some .demand) ∧
      ((∀ n ∈ s.window.assemblyQueue, ∃ v, s.slot? n = some v ∧ v.state = .closed) →
        slot.unclosed = true → b < k → slot'.unclosed = true) ∧
      (slot.unclosed = false → slot'.unclosed = false) ∧
      (slot.unclosed = false ∨ b < k → slot'.closeReason = slot.closeReason) := by
  have unclosed : ∀ n ∈ l, ∃ v, s.slot? n = some v ∧ v.unclosed = true := fun n mem => ((members n).1 mem).2
  have idle : s.WalkIdle := .inl (by rw [mode]; decide)
  have kept := settle_slotsKept (closeAll (l.map (·, .demand)) s)
  obtain ⟨named, others⟩ := closes_slots .demand rising unclosed found
  by_cases mem : k ∈ l
  · obtain ⟨below, v, found', isUnclosed⟩ := (members k).1 mem
    obtain rfl : slot = v := Option.some.inj (found.symm.trans found')
    obtain ⟨slot', after, closed, reason, contributors⟩ := kept.closed k _ (named mem) rfl
    refine ⟨slot', after, contributors, fun _ _ => ⟨closed, reason⟩, fun _ _ above => by omega,
      fun _ => closed, fun other => ?_⟩
    obtain isClosed | above := other
    · rw [isUnclosed] at isClosed; cases isClosed
    · omega
  · have stays := others mem
    obtain ⟨slot', after, reason, contributors, -⟩ := (settle_unless_early _
      (by rw [closeAll_config, mode]; decide)).1 k slot stays
    refine ⟨slot', after, contributors, fun isUnclosed below =>
      absurd ((members k).2 ⟨below, slot, found, isUnclosed⟩) mem, fun queue isUnclosed above => ?_,
      fun isClosed => ?_, fun _ => reason⟩
    · obtain ⟨v, after', same⟩ := settle_unclosed (by rwa [closeAll_command]) (closeAll_walkIdle _ idle) stays
        fun _ => by
          rw [closes_queue .demand rising unclosed]
          exact head_ne_unclosed queue found isUnclosed mem
      obtain rfl : slot' = v := Option.some.inj (after.symm.trans after')
      rw [same, isUnclosed]
    · obtain ⟨v, after', closed, -⟩ := kept.closed k slot stays isClosed
      obtain rfl : slot' = v := Option.some.inj (after.symm.trans after')
      exact closed

/-- Closes of every unclosed slot and what follows them leave no slot unclosed (R112). -/
theorem stopCloses_slot {l : List Nat} (rising : l.Pairwise (· < ·))
    (members : ∀ k, k ∈ l ↔ ∃ slot, s.slot? k = some slot ∧ slot.unclosed = true)
    (found : s.slot? k = some slot) :
    ∃ slot', (settle (closeAll (l.map (·, .stop)) s)).slot? k = some slot' ∧ slot'.unclosed = false ∧
      slot'.contributors = slot.contributors ∧
      (slot.unclosed = true → slot'.closeReason = some .stop) ∧
      (slot.unclosed = false → slot'.closeReason = slot.closeReason) := by
  have kept := settle_slotsKept (closeAll (l.map (·, .stop)) s)
  obtain ⟨named, others⟩ := closes_slots .stop rising (fun n mem => (members n).1 mem) found
  by_cases mem : k ∈ l
  · obtain ⟨v, found', isUnclosed⟩ := (members k).1 mem
    obtain rfl : slot = v := Option.some.inj (found.symm.trans found')
    obtain ⟨slot', after, closed, reason, contributors⟩ := kept.closed k _ (named mem) rfl
    exact ⟨slot', after, closed, contributors, fun _ => reason,
      fun isClosed => by rw [isUnclosed] at isClosed; cases isClosed⟩
  · have isClosed : slot.unclosed = false := Bool.eq_false_iff.2 fun isUnclosed =>
      mem ((members k).2 ⟨slot, found, isUnclosed⟩)
    obtain ⟨slot', after, closed, reason, contributors⟩ := kept.closed k slot (others mem) isClosed
    exact ⟨slot', after, closed, contributors, fun isUnclosed => absurd isUnclosed (by simp [isClosed]),
      fun _ => reason⟩

/-! ## The requests -/

variable {r : Request} {rest : List Request}

theorem startHorizon_eq (h : Option Nat) (now : Nat) :
    startHorizon h now = h.elim now fun h => max h now := by
  cases h <;> rfl

theorem start_eq (length : r.fields = []) (idle : s.reporting.opState = .idle) :
    start r s = if s.time.quality = .unset then .refuse .noTime else
      .accept (startPart s) (be8 (startHorizon s.window.horizon s.currentInstant) ++
        be4 s.time.second ++ be1 s.time.quality.code) :=
  checks_pass (by rw [length]; rfl) (decide_eq_true idle) rfl

theorem stop_eq (length : r.fields = []) (running : s.reporting.opState = .running) :
    stop r s = .drain (stopPart s) :=
  checks_pass (by rw [length]; rfl) (decide_eq_true running) rfl

theorem exec_stop (executes : s.Executes 21 r rest) (length : r.fields = [])
    (running : s.reporting.opState = .running) : exec .stop s = .next (transmitChoice (drainEnd
      ((stopPart (s.withProcessor .executing)).withProcessor .awaitingDrain))) := by
  refine (answer_runRequest executes stop).trans ?_
  rw [stop_eq length (show (s.withProcessor .executing).reporting.opState = _ from running), conclude]

theorem releaseThrough_eq (length : r.fields.length = 8) (running : s.reporting.opState = .running)
    (mode : s.window.config.mode = .demand) {b : Nat}
    (bound : b = min (fieldAt r.fields 0 8) s.currentInstant) :
    releaseThrough r s = .accept (settle (closeAll (s.throughBound b) s))
      (be8 b ++ be4 (s.throughBound b).length ++
        be8 ((settle (closeAll (s.throughBound b) s)).window.horizon.getD 0)) := by
  subst bound
  exact checks_pass (decide_eq_true length) (by rw [running, mode]; rfl) rfl

/-! ## The end of the drain -/

theorem drainEnd_of_open (other : s.reporting.opState ≠ .draining ∨ s.window.assemblyQueue ≠ [] ∨
    s.assembler.current ≠ none) : drainEnd s = s := by
  refine if_neg fun ⟨draining, queue, current⟩ => ?_
  obtain other | other | other := other
  · exact other draining
  · exact other queue
  · exact other current

theorem drainEnd_of_ended {u : State} (draining : s.reporting.opState = .draining)
    (queue : s.window.assemblyQueue = []) (current : s.assembler.current = none)
    (ended : u = { s with reporting := { s.reporting with opState := .idle } }) :
    drainEnd s = if s.command.processor = .awaitingDrain ∧ s.command.replies.length < 8
      then transmitChoice (makeStopReply u) else u := by
  subst ended
  exact if_pos ⟨draining, queue, current⟩

theorem makeStopReply_of_head {u : State} (head : u.command.requests = r :: rest) :
    makeStopReply u = { u with command := { u.command with
      replies := u.command.replies ++ [⟨r.code, r.tag, .ok, []⟩]
      requests := rest
      processor := .free } } := by
  rw [makeStopReply, head]

/-! ## STOP and RELEASE_THROUGH on the window -/

/-- STOP closes every unclosed slot, oldest first, and the drain begins (R112, R170). -/
theorem stopPart_eq {u : State} {closes : List Nat} (sorted : tableSorted s.window.slots)
    (rising : closes.Pairwise (· < ·))
    (members : ∀ k, k ∈ closes ↔ ∃ slot, s.slot? k = some slot ∧ slot.unclosed = true)
    (begun : u = { s with
      reporting := { s.reporting with opState := .draining }
      time := { s.time with cadenceMark := none } }) :
    stopPart s = settle (closeAll (closes.map (·, .stop)) u) := by
  subst begun
  unfold stopPart
  dsimp only
  rw [toClose_eq (s := { s with
      reporting := { s.reporting with opState := .draining }
      time := { s.time with cadenceMark := none } }) sorted .stop rising (p := fun _ => true)
    fun k => (members k).trans (by simp [State.slot?])]

theorem throughBound_eq {b : Nat} {closes : List Nat} (sorted : tableSorted s.window.slots)
    (rising : closes.Pairwise (· < ·))
    (members : ∀ k, k ∈ closes ↔ k ≤ b ∧ ∃ slot, s.slot? k = some slot ∧ slot.unclosed = true) :
    s.throughBound b = closes.map (·, .demand) :=
  toClose_eq sorted .demand rising fun k => by rw [members, decide_eq_true_iff]

end

/-- Settles O59: each request's effect is the closes of its list and what follows them, the walk idle. -/
theorem startStopAndReleaseThroughMoveTheWindow :
    Obligations.StartStopAndReleaseThroughMoveTheWindow := by
  refine fun s r rest sorted => ⟨fun executes length opState => ⟨fun unset => ?_, ?_⟩, ?_, drainEnd_of_open,
    fun u draining queue current ended => ⟨fun stays => ?_, fun waits room head => ?_⟩, ?_⟩
  · exact answer_refused executes
      ((start_eq (s := s.withProcessor .executing) length opState).trans (if_pos unset))
  · rintro set now horizon rfl rfl
    rw [← startHorizon_eq]
    exact answer_accepted executes
      ((start_eq (s := s.withProcessor .executing) length opState).trans (if_neg set))
  · intro executes length running u closes rising members begun
    have unclosed : ∀ n ∈ closes, ∃ v, u.slot? n = some v ∧ v.unclosed = true := by
      rw [begun]
      exact fun n mem => (members n).1 mem
    have executing : u.command.processor = .executing := by rw [begun]; rfl
    have draining : u.reporting.opState = .draining := by rw [begun]
    have idle : u.WalkIdle := .inr (by rw [draining]; decide)
    have effect := stopPart_eq (s := s.withProcessor .executing) sorted rising members begun
    obtain ⟨command, release, opState⟩ := settle_requestKept (closeAll (closes.map (·, .stop)) u)
      (by rwa [closeAll_command])
    rw [closeAll_command] at command
    rw [closeAll_release] at release
    rw [closeAll_reporting] at opState
    have queue := settle_closes_queue .stop executing idle rising unclosed
    have horizon := settle_closes_horizon .stop executing idle rising unclosed
    refine ⟨_, exec_stop executes length running, ?_⟩
    rw [effect]
    refine ⟨by rw [closeAll_reason], horizon.trans (by rw [begun]; rfl), queue.trans (by rw [begun]; rfl),
      opState.trans draining, ?_, ?_, ?_, fun k slot found => ?_⟩
    · rw [withProcessor_time, settle_time, closeAll_time, begun]
    · rw [State.withProcessor, command, begun]; rfl
    · rw [withProcessor_release, release, begun]; rfl
    · exact stopCloses_slot (s := u) rising (by rw [begun]; exact members) (by rw [begun]; exact found)
  · refine (drainEnd_of_ended draining queue current ended).trans (if_neg fun ⟨waits, room⟩ => ?_)
    exact stays.elim (absurd waits) (Nat.not_le.2 room)
  · rw [drainEnd_of_ended draining queue current ended, if_pos ⟨waits, room⟩,
      makeStopReply_of_head (r := r) (rest := rest) (by rw [ended]; exact head), ended]
  · intro executes length running mode b bound closes rising members
    have unclosed : ∀ n ∈ closes, ∃ v, s.slot? n = some v ∧ v.unclosed = true :=
      fun n mem => ((members n).1 mem).2
    have through : (s.withProcessor .executing).throughBound b = closes.map (·, .demand) :=
      throughBound_eq sorted rising members
    have effect := releaseThrough_eq (s := s.withProcessor .executing) length running mode bound
    have idle : (s.withProcessor .executing).WalkIdle :=
      .inl (by rw [withProcessor_window, mode]; decide)
    have horizon := settle_closes_horizon (s := s.withProcessor .executing) .demand rfl idle rising unclosed
    rw [through, List.length_map] at effect
    rw [← closeAll_reason]
    refine ⟨_, answer_effected executes effect, rfl,
      settle_closes_queue (s := s.withProcessor .executing) .demand rfl idle rising unclosed,
      fun k slot found => ?_, fun above => ?_, fun k slot found isUnclosed below greatest => ?_⟩
    · obtain ⟨slot', after, contributors, closed, open_, stays, reason⟩ :=
        demandCloses_slot (s := s.withProcessor .executing) rfl mode rising members found
      exact ⟨slot', after, contributors, closed, fun bounded => open_ bounded.closed, stays, reason⟩
    · refine horizon.trans (if_pos (List.eq_nil_iff_forall_not_mem.2 fun k mem => ?_))
      obtain ⟨below, slot, found, isUnclosed⟩ := (members k).1 mem
      exact absurd (above k slot found isUnclosed) (Nat.not_lt.2 below)
    · have mem := (members k).2 ⟨below, slot, found, isUnclosed⟩
      refine (horizon.trans (if_neg (List.ne_nil_of_mem mem))).trans (rising_last rising mem fun j mem => ?_)
      obtain ⟨le, other, found, isUnclosed⟩ := (members j).1 mem
      exact greatest j other found isUnclosed le

end Sys2Proof.Machine
